-- ==== Sys2Proof/Word.lean ====
section
/-! DEFINITION. The plain types of the block: bytes and tick counts, the three axes, the two joystick channels, the Step
(10_state R27) and the real numbers of the configuration and of the Manual Interpolator (41_step_interpolator R73). -/

namespace Sys2Proof

/-- A byte of the stream, a raw sample or a zero offset (00_scope R11: a byte is 8 bits). -/
abbrev Byte := BitVec 8

/-- `u16`: a Step's duration (00_scope R9, DURATION_WIDTH). -/
abbrev Ticks := BitVec 16

/-- A component of Position, a signed integer kept within POS_WIDTH bits (00_scope R9, 10_state R23). -/
abbrev Coord := Int

/-- The axes (00_scope R9, R12). -/
inductive Axis where
  | x | y | z
  deriving DecidableEq, Repr

/-- One value per axis. -/
structure PerAxis (α : Type) where
  x : α
  y : α
  z : α
  deriving DecidableEq, Repr

/-- The value an axis holds. -/
def PerAxis.get {α : Type} (p : PerAxis α) : Axis → α
  | .x => p.x
  | .y => p.y
  | .z => p.z

/-- The values with that of one axis replaced. -/
def PerAxis.set {α : Type} (p : PerAxis α) : Axis → α → PerAxis α
  | .x, v => ⟨v, p.y, p.z⟩
  | .y, v => ⟨p.x, v, p.z⟩
  | .z, v => ⟨p.x, p.y, v⟩

/-- The same value on every axis. -/
def PerAxis.all {α : Type} (a : α) : PerAxis α := ⟨a, a, a⟩

/-- The two joystick channels of the analog sample pair (10_state R37). -/
inductive Channel where
  | x | y
  deriving DecidableEq, Repr

/-- One value per joystick channel. -/
structure PerChannel (α : Type) where
  x : α
  y : α
  deriving DecidableEq, Repr

/-- A Step: "one pulse instruction", a duration and per-axis direction and step flags (10_state R27). -/
structure Step where
  duration : Ticks
  dir : PerAxis Bool
  step : PerAxis Bool
  deriving DecidableEq, Repr

/-- The zero Step: duration 0 and all six flags 0 (10_state R28, 41_step_interpolator R84). -/
def Step.zero : Step := ⟨0, .all false, .all false⟩

/-- A real number the configuration gives (00_scope R9, 10_state R24, R29): a rational number written out, or one of the reals
the configuration names, any real whatever (log 9). -/
inductive ConfigReal where
  | rat (a : Rat)
  | given (i : Nat)
  deriving DecidableEq, Repr, Inhabited

/-- The number `rat + coef * sqrt rad`, the natural number `rad` being fixed by where the surd stands. -/
structure Surd where
  rat : Rat
  coef : Rat
  deriving DecidableEq, Repr, Inhabited

/-- A real number as plain data: the expression that computes it from the square root of one natural number and from the reals
the configuration names (41_step_interpolator R73; DESIGN CHOICE, log 9). -/
inductive RealExpr where
  | num (q : Surd)
  | given (i : Nat)
  | add (a b : RealExpr)
  | neg (a : RealExpr)
  | mul (a b : RealExpr)
  | inv (a : RealExpr)
  deriving DecidableEq, Repr, Inhabited

/-- A real number that stands by itself: an expression and the natural number its square root is of. -/
structure Number where
  rad : Nat
  expr : RealExpr
  deriving DecidableEq, Repr, Inhabited

/-- A rational number. -/
def Number.ofRat (a : Rat) : Number := ⟨0, .num ⟨a, 0⟩⟩

end Sys2Proof
end

