-- ==== Sys2Proof/Machine/Reals.lean ====
section
/-! DEFINITION. The real arithmetic of 00_scope R13 on plain data (log 9): `isqrt`, surds over one radicand, the real number an
expression stands for, and what is to be known of the reals a configuration names. The theorems here are those the last
definition needs. -/

namespace Sys2Proof

/-! `isqrt`. -/

/-- The digits of `isqrt`, from the bit of weight `2 ^ k` down. -/
def isqrtFrom (n : Nat) : Nat → Nat → Nat
  | 0, root => root
  | k + 1, root =>
    if (root + 2 ^ k) * (root + 2 ^ k) ≤ n then isqrtFrom n k (root + 2 ^ k) else isqrtFrom n k root

/-- The greatest natural whose square is at most `n` (00_scope R13). -/
def isqrt (n : Nat) : Nat := isqrtFrom n (n.log2 / 2 + 1) 0

/-- The least natural whose square is at least `n`. -/
def isqrtUp (n : Nat) : Nat := if isqrt n * isqrt n = n then isqrt n else isqrt n + 1

theorem isqrtFrom_spec (n k root : Nat) (lo : root * root ≤ n) (hi : n < (root + 2 ^ k) * (root + 2 ^ k)) :
    isqrtFrom n k root * isqrtFrom n k root ≤ n ∧ n < (isqrtFrom n k root + 1) * (isqrtFrom n k root + 1) := by
  induction k generalizing root with
  | zero => simpa [isqrtFrom] using ⟨lo, by simpa using hi⟩
  | succ k ih =>
    unfold isqrtFrom
    split
    · next h => exact ih _ h (by rw [pow_succ] at hi; convert hi using 2 <;> ring)
    · next h => exact ih _ lo (by omega)

theorem lt_log2_bound (n : Nat) : n < (2 ^ (n.log2 / 2 + 1)) * (2 ^ (n.log2 / 2 + 1)) := by
  rw [← pow_add]
  exact lt_of_lt_of_le Nat.lt_log2_self (Nat.pow_le_pow_right (by omega) (by omega))

theorem isqrt_spec (n : Nat) : isqrt n * isqrt n ≤ n ∧ n < (isqrt n + 1) * (isqrt n + 1) :=
  isqrtFrom_spec n _ 0 (by simp) (by simpa using lt_log2_bound n)

/-- `isqrt` is the library's integer square root. -/
theorem isqrt_eq_sqrt (n : Nat) : isqrt n = Nat.sqrt n :=
  Nat.eq_sqrt.2 (isqrt_spec n)

theorem isqrt_eq_floor (n : Nat) : (isqrt n : ℤ) = ⌊√(n : ℝ)⌋ := by
  rw [isqrt_eq_sqrt, Real.floor_real_sqrt_eq_nat_sqrt]

theorem isqrtUp_eq_ceil (n : Nat) : (isqrtUp n : ℤ) = ⌈√(n : ℝ)⌉ := by
  have hs := isqrt_spec n
  unfold isqrtUp
  symm
  rw [Int.ceil_eq_iff]
  split
  · next h =>
    have e : √(n : ℝ) = isqrt n := by
      have h' : (n : ℝ) = isqrt n * isqrt n := by exact_mod_cast h.symm
      rw [h']; exact Real.sqrt_mul_self (Nat.cast_nonneg _)
    rw [e]; push_cast; constructor <;> linarith
  · next h =>
    push_cast
    constructor
    · have : (isqrt n : ℝ) < √(n : ℝ) := by
        apply Real.lt_sqrt_of_sq_lt
        have : isqrt n * isqrt n < n := lt_of_le_of_ne hs.1 h
        rw [sq]; exact_mod_cast this
      linarith
    · apply Real.sqrt_le_iff.2 ⟨Nat.cast_add_one_pos _ |>.le, ?_⟩
      have := hs.2.le
      rw [sq]; exact_mod_cast this

/-! Surds over one radicand. -/

/-- The real number of a surd. -/
noncomputable def Surd.toReal (rad : Nat) (q : Surd) : ℝ := (q.rat : ℝ) + (q.coef : ℝ) * √(rad : ℝ)

/-- Sum. -/
def Surd.add (p q : Surd) : Surd := ⟨p.rat + q.rat, p.coef + q.coef⟩

/-- Negation. -/
def Surd.neg (p : Surd) : Surd := ⟨-p.rat, -p.coef⟩

/-- Product. -/
def Surd.mul (rad : Nat) (p q : Surd) : Surd :=
  ⟨p.rat * q.rat + p.coef * q.coef * rad, p.rat * q.coef + p.coef * q.rat⟩

/-- The one spelling of a surd: without a root where the radicand is a square. -/
def Surd.norm (rad : Nat) (q : Surd) : Surd :=
  if isqrt rad * isqrt rad = rad then ⟨q.rat + q.coef * isqrt rad, 0⟩ else q

/-- The reciprocal of a surd in its one spelling: the conjugate over the norm. -/
def Surd.normInv (rad : Nat) (p : Surd) : Surd :=
  ⟨p.rat / (p.rat * p.rat - p.coef * p.coef * rad), -p.coef / (p.rat * p.rat - p.coef * p.coef * rad)⟩

/-- Reciprocal. The reciprocal of 0 is 0 here; every rule that divides says what happens at a zero divisor. -/
def Surd.inv (rad : Nat) (p : Surd) : Surd := (p.norm rad).normInv rad

/-- The greatest integer at most the number (00_scope R13). Over the common denominator the number is
`(p + t * sqrt rad) / d`, and the floor is that of `(p + floor (t * sqrt rad)) / d`. -/
def Surd.floor (rad : Nat) (q : Surd) : Int :=
  let t : Int := q.coef.num * q.rat.den
  let w : Nat := t.natAbs * t.natAbs * rad
  let root : Int := if 0 ≤ t then (isqrt w : Int) else -(isqrtUp w : Int)
  (q.rat.num * q.coef.den + root) / ((q.rat.den * q.coef.den : Nat) : Int)

/-- Two surds in their one spelling, over two radicands, are the same number: equal rational parts, and roots with equal signed
squares. -/
def Surd.normSame (m : Nat) (p : Surd) (n : Nat) (q : Surd) : Bool :=
  decide (p.rat = q.rat ∧ p.coef * |p.coef| * m = q.coef * |q.coef| * n)

/-- Two surds, over two radicands, are the same number. -/
def Surd.same (m : Nat) (p : Surd) (n : Nat) (q : Surd) : Bool := (p.norm m).normSame m n (q.norm n)

namespace Surd

theorem toReal_add (rad : Nat) (p q : Surd) : (p.add q).toReal rad = p.toReal rad + q.toReal rad := by
  simp only [toReal, add]; push_cast; ring

theorem toReal_neg (rad : Nat) (p : Surd) : p.neg.toReal rad = -p.toReal rad := by
  simp only [toReal, neg]; push_cast; ring

theorem toReal_mul (rad : Nat) (p q : Surd) : (p.mul rad q).toReal rad = p.toReal rad * q.toReal rad := by
  simp only [toReal, mul]; push_cast
  have := Real.mul_self_sqrt (Nat.cast_nonneg (α := ℝ) rad)
  linear_combination (-(p.coef : ℝ) * q.coef) * this

theorem toReal_norm (rad : Nat) (q : Surd) : (q.norm rad).toReal rad = q.toReal rad := by
  unfold norm
  split
  · next h =>
    have e : √(rad : ℝ) = isqrt rad := by
      have h' : (rad : ℝ) = isqrt rad * isqrt rad := by exact_mod_cast h.symm
      rw [h', Real.sqrt_mul_self (Nat.cast_nonneg _)]
    simp [toReal, e]
  · rfl

/-- A surd in its one spelling has no root, or an irrational one. -/
theorem norm_cases (rad : Nat) (q : Surd) : (q.norm rad).coef = 0 ∨ Irrational √(rad : ℝ) := by
  unfold norm
  split
  · exact .inl rfl
  · next h =>
    refine .inr (irrational_sqrt_natCast_iff.2 fun ⟨r, hr⟩ => h ?_)
    rw [isqrt_eq_sqrt, hr, Nat.sqrt_eq]

/-- A rational plus a rational multiple of an irrational root is rational only without the root. -/
theorem coef_eq_zero_of_rat {r : ℝ} (h : Irrational r) {a b c : Rat} (e : (a : ℝ) + b * r = c) : b = 0 := by
  by_contra hb
  refine h ⟨(c - a) / b, ?_⟩
  have : (b : ℝ) ≠ 0 := by exact_mod_cast hb
  push_cast; field_simp; linarith

theorem toReal_normInv {rad : Nat} {p : Surd} (hp : p.coef = 0 ∨ Irrational √(rad : ℝ)) :
    (p.normInv rad).toReal rad = (p.toReal rad)⁻¹ := by
  have s := Real.mul_self_sqrt (Nat.cast_nonneg (α := ℝ) rad)
  by_cases h0 : p.toReal rad = 0
  · have hc : p.coef = 0 := hp.elim id fun h => coef_eq_zero_of_rat (c := 0) h (by simpa [toReal] using h0)
    have hr : p.rat = 0 := by simpa [toReal, hc] using h0
    simp [toReal, normInv, hc, hr]
  have key : (p.rat : ℝ) * p.rat - p.coef * p.coef * rad ≠ 0 := by
    intro hk
    have hprod : p.toReal rad * ((p.rat : ℝ) - p.coef * √(rad : ℝ)) = 0 := by
      rw [toReal]; linear_combination hk - (p.coef : ℝ) * p.coef * s
    have h2 := (mul_eq_zero.1 hprod).resolve_left h0
    have hc : p.coef = 0 := hp.elim id fun h => by
      have := coef_eq_zero_of_rat (a := p.rat) (b := -p.coef) (c := 0) h (by push_cast; linarith)
      linarith
    exact h0 (by simpa [toReal, hc] using h2)
  apply eq_inv_of_mul_eq_one_left
  have hconj : ((p.rat : ℝ) - p.coef * √(rad : ℝ)) * (p.rat + p.coef * √(rad : ℝ)) =
      p.rat * p.rat - p.coef * p.coef * rad := by linear_combination (-(p.coef : ℝ) * p.coef) * s
  simp only [toReal, normInv]; push_cast
  rw [← div_self key, ← hconj]; ring

/-- The reciprocal is the real one, that of 0 being 0 (the library's convention). -/
theorem toReal_inv (rad : Nat) (p : Surd) : (p.inv rad).toReal rad = (p.toReal rad)⁻¹ := by
  rw [inv, toReal_normInv (norm_cases rad p), toReal_norm]

/-- The floor is the real floor. -/
theorem floor_eq (rad : Nat) (q : Surd) : q.floor rad = ⌊q.toReal rad⌋ := by
  set t : Int := q.coef.num * q.rat.den with ht
  set d : ℕ := q.rat.den * q.coef.den with hd
  have hd0 : 0 < d := Nat.mul_pos q.rat.den_pos q.coef.den_pos
  have hr : (q.rat : ℝ) = q.rat.num / q.rat.den := by exact_mod_cast (Rat.num_div_den q.rat).symm
  have hc : (q.coef : ℝ) = q.coef.num / q.coef.den := by exact_mod_cast (Rat.num_div_den q.coef).symm
  have hrd : (q.rat.den : ℝ) ≠ 0 := by exact_mod_cast q.rat.den_ne_zero
  have hcd : (q.coef.den : ℝ) ≠ 0 := by exact_mod_cast q.coef.den_ne_zero
  have hsq : (√((t.natAbs * t.natAbs * rad : ℕ) : ℝ)) = |(t : ℝ)| * √(rad : ℝ) := by
    push_cast
    rw [Real.sqrt_mul (by positivity), Real.sqrt_mul_self (by positivity), Nat.cast_natAbs]; simp
  have hval : q.toReal rad = (((q.rat.num * q.coef.den : Int) : ℝ) + t * √(rad : ℝ)) / (d : ℝ) := by
    rw [toReal, hr, hc, ht, hd]; push_cast; field_simp
  have hroot : (if 0 ≤ t then (isqrt (t.natAbs * t.natAbs * rad) : Int)
      else -(isqrtUp (t.natAbs * t.natAbs * rad) : Int)) = ⌊(t : ℝ) * √(rad : ℝ)⌋ := by
    split
    · next h => rw [isqrt_eq_floor, hsq, abs_of_nonneg (by exact_mod_cast h)]
    · next h =>
      rw [isqrtUp_eq_ceil, hsq, abs_of_neg (by exact_mod_cast not_le.1 h), ← Int.floor_neg]; congr 1; ring
  unfold floor
  rw [hval, Int.floor_div_natCast, Int.floor_intCast_add, ← hroot]

/-- Equal signed squares are equal numbers. -/
theorem mul_abs_self_injective {u v : ℝ} (h : u * |u| = v * |v|) : u = v := by
  rcases abs_cases u with ⟨hu, hu'⟩ | ⟨hu, hu'⟩ <;> rcases abs_cases v with ⟨hv, hv'⟩ | ⟨hv, hv'⟩ <;>
    rw [hu, hv] at h <;> nlinarith

theorem normSame_iff {m n : Nat} {p q : Surd} (hp : p.coef = 0 ∨ Irrational √(m : ℝ))
    (hq : q.coef = 0 ∨ Irrational √(n : ℝ)) : p.normSame m n q = true ↔ p.toReal m = q.toReal n := by
  have sm := Real.mul_self_sqrt (Nat.cast_nonneg (α := ℝ) m)
  have sn := Real.mul_self_sqrt (Nat.cast_nonneg (α := ℝ) n)
  have e : ((p.coef * |p.coef| * m : ℚ) = q.coef * |q.coef| * n) ↔
      (p.coef : ℝ) * √(m : ℝ) = q.coef * √(n : ℝ) := by
    have hm : (p.coef : ℝ) * √(m : ℝ) * |(p.coef : ℝ) * √(m : ℝ)| = p.coef * |(p.coef : ℝ)| * m := by
      rw [abs_mul, abs_of_nonneg (Real.sqrt_nonneg _)]; linear_combination (p.coef : ℝ) * |(p.coef : ℝ)| * sm
    have hn : (q.coef : ℝ) * √(n : ℝ) * |(q.coef : ℝ) * √(n : ℝ)| = q.coef * |(q.coef : ℝ)| * n := by
      rw [abs_mul, abs_of_nonneg (Real.sqrt_nonneg _)]; linear_combination (q.coef : ℝ) * |(q.coef : ℝ)| * sn
    rw [← Rat.cast_inj (α := ℝ)]
    push_cast
    rw [← hm, ← hn]
    exact ⟨mul_abs_self_injective, fun h => by rw [h]⟩
  unfold normSame toReal
  rw [decide_eq_true_iff, e]
  refine ⟨fun ⟨h1, h2⟩ => by rw [h1, h2], fun h => ?_⟩
  have hrat : p.rat = q.rat := by
    by_contra hne
    have hne' : (q.rat : ℝ) - p.rat ≠ 0 := sub_ne_zero.2 fun h => hne (by exact_mod_cast h.symm)
    have hq0 : q.coef = 0 := hq.elim id fun hi => by
      have := coef_eq_zero_of_rat (a := (q.rat - p.rat) ^ 2 + q.coef ^ 2 * n) (b := 2 * (q.rat - p.rat) * q.coef)
        (c := p.coef ^ 2 * m) hi (by push_cast; linear_combination (q.coef : ℝ) ^ 2 * (-sn) + p.coef ^ 2 * sm +
          (-(p.coef : ℝ) * √(m : ℝ) - (q.rat - p.rat + q.coef * √(n : ℝ))) * h)
      have h2 : (2 : ℚ) * (q.rat - p.rat) ≠ 0 := mul_ne_zero two_ne_zero (sub_ne_zero.2 (Ne.symm hne))
      exact (mul_eq_zero.1 this).resolve_left h2
    have hp0 : p.coef = 0 := hp.elim id fun hi => coef_eq_zero_of_rat (c := q.rat) hi (by simpa [hq0] using h)
    exact hne (by simpa [hp0, hq0] using h)
  exact ⟨hrat, by rw [hrat] at h; linarith⟩

/-- The comparison is that of the real numbers. -/
theorem same_iff (m : Nat) (p : Surd) (n : Nat) (q : Surd) : p.same m n q = true ↔ p.toReal m = q.toReal n := by
  rw [same, normSame_iff (norm_cases m p) (norm_cases n q), toReal_norm, toReal_norm]

end Surd

/-! Expressions. -/

/-- The real number an expression stands for, given the reals the configuration names and the radicand. -/
noncomputable def RealExpr.eval (named : Nat → ℝ) (rad : Nat) : RealExpr → ℝ
  | .num q => q.toReal rad
  | .given i => named i
  | .add a b => a.eval named rad + b.eval named rad
  | .neg a => -a.eval named rad
  | .mul a b => a.eval named rad * b.eval named rad
  | .inv a => (a.eval named rad)⁻¹

/-- No real the configuration names occurs in the expression. -/
def RealExpr.closed : RealExpr → Bool
  | .num _ => true
  | .given _ => false
  | .add a b => a.closed && b.closed
  | .neg a => a.closed
  | .mul a b => a.closed && b.closed
  | .inv a => a.closed

/-- The surd of a closed expression; a named real counts as 0. -/
def RealExpr.surd (rad : Nat) : RealExpr → Surd
  | .num q => q
  | .given _ => ⟨0, 0⟩
  | .add a b => (a.surd rad).add (b.surd rad)
  | .neg a => (a.surd rad).neg
  | .mul a b => (a.surd rad).mul rad (b.surd rad)
  | .inv a => (a.surd rad).inv rad

/-- The surd has the expression's value where no named real occurs, and where all of them are 0. -/
theorem RealExpr.toReal_surd {named : Nat → ℝ} (rad : Nat) {a : RealExpr} (h : a.closed = true ∨ ∀ i, named i = 0) :
    (a.surd rad).toReal rad = a.eval named rad := by
  induction a with
  | num q => rfl
  | given i => simpa [surd, eval, Surd.toReal, closed] using (h.resolve_left (by simp [closed]) i).symm
  | add a b iha ihb =>
    simp only [closed, Bool.and_eq_true] at h
    rw [surd, eval, Surd.toReal_add, iha (h.imp_left And.left), ihb (h.imp_left And.right)]
  | neg a ih => rw [surd, eval, Surd.toReal_neg, ih h]
  | mul a b iha ihb =>
    simp only [closed, Bool.and_eq_true] at h
    rw [surd, eval, Surd.toReal_mul, iha (h.imp_left And.left), ihb (h.imp_left And.right)]
  | inv a ih => rw [surd, eval, Surd.toReal_inv, ih h]

/-- What is to be known of the reals a configuration names: their values, and with them the floor of every number and the
equality of any two. Every assignment of reals has one (log 9). -/
structure NamedReals where
  val : Nat → ℝ
  floor : Number → Int
  same : Number → Number → Bool
  floor_spec : ∀ a : Number, floor a = ⌊a.expr.eval val a.rad⌋
  same_spec : ∀ a b : Number, same a b = true ↔ a.expr.eval val a.rad = b.expr.eval val b.rad

/-- An assignment, so that the type is known to have one: every named real is 0. -/
def NamedReals.zero : NamedReals where
  val := fun _ => 0
  floor := fun a => (a.expr.surd a.rad).floor a.rad
  same := fun a b => (a.expr.surd a.rad).same a.rad b.rad (b.expr.surd b.rad)
  floor_spec := fun a => by rw [Surd.floor_eq, RealExpr.toReal_surd a.rad (.inr fun _ => rfl)]
  same_spec := fun a b => by
    rw [Surd.same_iff, RealExpr.toReal_surd a.rad (.inr fun _ => rfl), RealExpr.toReal_surd b.rad (.inr fun _ => rfl)]

end Sys2Proof
end

