-- ==== Sys2Proof/Config.lean ====
section
/-! DEFINITION. The parameters of 00_scope R9: the types a configuration is written in, and the uninterpreted constants that
stand for the values no source gives (OPEN) and for the free values ("draws"). -/

namespace Sys2Proof

/-- FLAG_LAYOUT: the bit of the flag byte B2 that holds each axis flag (00_scope R9, 30_encoding R59). -/
structure FlagLayout where
  xDir : Fin 8
  xStep : Fin 8
  yDir : Fin 8
  yStep : Fin 8
  zDir : Fin 8
  zStep : Fin 8
  deriving DecidableEq, Repr

/-- The default FLAG_LAYOUT (00_scope R9, 30_encoding R58, R59). UNVERIFIED, log 10. -/
def FlagLayout.default : FlagLayout := ⟨0, 1, 2, 3, 4, 5⟩

/-- The positions of a layout, in the order the spec lists the flags. -/
def FlagLayout.positions (l : FlagLayout) : List (Fin 8) :=
  [l.xDir, l.xStep, l.yDir, l.yStep, l.zDir, l.zStep]

/-- A layout gives each of the six flags a bit of its own. -/
def FlagLayout.wf (l : FlagLayout) : Bool := decide l.positions.Nodup

/-- RANGE_POLICY: the value an out-of-range duration takes (00_scope R9, 41_step_interpolator R80). -/
inductive RangePolicy where
  | wrap | saturate
  deriving DecidableEq, Repr

/-- NUMERICS: the Manual Interpolator's arithmetic, the reference or that of an implementation (00_scope R9,
41_step_interpolator R73). -/
inductive Numerics where
  | exact
  | implementation (i : Nat)
  deriving DecidableEq, Repr

/-- The operations an arithmetic of the Manual Interpolator has, over whatever it writes numbers as (41_step_interpolator R73). -/
structure Arithmetic where
  /-- An integer. -/
  int : Int → RealExpr
  /-- Step 1 of a displacement: its 128th part (41_step_interpolator R75). -/
  normalise : Int → RealExpr
  /-- Step 2: the magnitude of the vector of two displacements, before it is clamped (41_step_interpolator R76). -/
  magnitude : PerChannel Int → RealExpr
  add : RealExpr → RealExpr → RealExpr
  sub : RealExpr → RealExpr → RealExpr
  mul : RealExpr → RealExpr → RealExpr
  div : RealExpr → RealExpr → RealExpr
  /-- Step 5: `clock / feed / steps`, none where it is not finite (41_step_interpolator R79, R80). -/
  quotient : RealExpr → RealExpr → RealExpr → Option RealExpr
  le : RealExpr → RealExpr → Bool
  floor : RealExpr → Int
  round : RealExpr → Int
  /-- Step 4: two stored components are equal (41_step_interpolator R78). -/
  same : Number → Number → Bool
  deriving Inhabited

/-- The parameters that are fixed for a run and are no field of another part of the state (00_scope R9). AXES and
DURATION_WIDTH are fixed there, and so are the types `PerAxis` and `Ticks`. -/
structure BlockConfig where
  /-- DIR_POLARITY, the configured physical polarity of each direction line. -/
  dirPolarity : PerAxis Bool
  /-- IDLE_RELOAD, the reload of a zero-duration Step's period. -/
  idleReload : Nat
  /-- FLAG_LAYOUT. -/
  flagLayout : FlagLayout
  /-- RANGE_POLICY. -/
  rangePolicy : RangePolicy
  /-- NUMERICS. -/
  numerics : Numerics
  /-- POS_WIDTH, the width of a Position component. -/
  posWidth : Nat
  /-- TIMER_WIDTH, the width of the timer's reload register. -/
  timerWidth : Nat
  /-- COUNTER_WIDTH, the width of the interpolation counter; `none` is unbounded. -/
  counterWidth : Option Nat
  /-- FIFO_CAP; `none` is unbounded. -/
  fifoCap : Option Nat
  deriving DecidableEq, Repr

namespace Config

/-! OPEN parameters (00_scope R9): the configuration argument of the model, uninterpreted (log 8). -/

/-- The reals the configuration names, any reals whatever (log 9). -/
opaque someReals [Inhabited NamedReals] : NamedReals

/-- The reals the configuration names. -/
def reals : NamedReals := @someReals ⟨.zero⟩

/-- CLOCK_FREQ. -/
def clockFreq : ConfigReal := .given 0
/-- STEPS_PER_MM. -/
def stepsPerMm : ConfigReal := .given 1
/-- MAX_SPEED. -/
def maxSpeed : ConfigReal := .given 2
/-- MAX_ACCEL. -/
def maxAccel : ConfigReal := .given 3
/-- DEADZONE. -/
def deadzone : ConfigReal := .given 4
/-- MIN_FEED. -/
def minFeed : ConfigReal := .given 5
/-- MAX_FEED. -/
def maxFeed : ConfigReal := .given 6
/-- DIR_POLARITY of an axis. -/
opaque dirPolarity : Axis → Bool
/-- CMP_DIR. -/
opaque cmpDir : Nat
/-- CMP_STEP. -/
opaque cmpStep : Nat
/-- IDLE_RELOAD. -/
opaque idleReload : Nat

/-- The arithmetic of each implementation a configuration may put in the place of the reference (41_step_interpolator R73;
log 20). -/
opaque arithmetic : Nat → Arithmetic

/-! Free values: nothing constrains them (log 5, log 6). -/

/-- The draw that decides whether a compare event of a short period fires (43_pulse_sequencer R114), by index of the draw. -/
opaque freeBit : Nat → Bool
/-- The draw from u16 that a negative or non-finite quotient gives (41_step_interpolator R80), by index of the draw. -/
opaque freeTicks : Nat → Ticks
/-- The draw from u8 that each raw sample holds after reset (70_reset_and_hazards R144). -/
opaque freeSample : Channel → Byte

end Config

/-- The parameters with the values 00_scope R9 gives them: the OPEN ones uninterpreted, the others at their defaults. -/
def BlockConfig.given : BlockConfig where
  dirPolarity := ⟨Config.dirPolarity .x, Config.dirPolarity .y, Config.dirPolarity .z⟩
  idleReload := Config.idleReload
  flagLayout := .default
  rangePolicy := .wrap
  numerics := .exact
  posWidth := 32
  timerWidth := 16
  counterWidth := none
  fifoCap := none

end Sys2Proof
end

