-- ==== Sys2Proof/Syntax.lean ====
section
/-! DEFINITION. The instructions: one constructor per row of spec/opcode_table.json. The block's only encoded input is the
step record (30_encoding, preamble), and a record is STOP or STEP (30_encoding R62). -/

namespace Sys2Proof

/-- A decoded step record. The reserved bits W[23:22] are no part of it: the decoder ignores them (30_encoding R63). -/
inductive Instr where
  /-- A record with duration 0: its six axis flags (40_step_record R71). -/
  | stop (dirs steps : PerAxis Bool)
  /-- A record with a duration other than 0: the duration and the six axis flags (40_step_record R72). -/
  | step (duration : Ticks) (dirs steps : PerAxis Bool)
  deriving DecidableEq, Repr

end Sys2Proof
end

