-- ==== Sys2Proof/Machine/State.lean ====
section
/-! DEFINITION. The state of the block (10_state), the moves of its agents (00_scope R17), and the state after reset
(70_reset_and_hazards R144). -/

namespace Sys2Proof.Machine

/-- `params` (10_state R24). -/
structure Params where
  clockFreq : ConfigReal
  stepsPerMm : ConfigReal
  maxSpeed : ConfigReal
  maxAccel : ConfigReal
  deriving DecidableEq, Repr

/-- `opState` (10_state R25). -/
inductive OpState where
  | ready | manualControl | runningProgram
  deriving DecidableEq, Repr

/-- An event: a kind and up to three payload values, opaque to the core (10_state R26; log 12). -/
structure Event where
  kind : Nat
  p0 : Option Int
  p1 : Option Int
  p2 : Option Int
  deriving DecidableEq, Repr

/-- `mcs`, the working state of the interpolator (10_state R29). -/
structure ManualControlStatus where
  last : PerChannel Number
  deadzone : ConfigReal
  minFeed : ConfigReal
  maxFeed : ConfigReal
  zero : PerChannel Byte
  n : Nat
  previousCoord : Number
  newCoord : Number
  deriving DecidableEq, Repr

/-- `tmr.phase`: the next event the period will issue (10_state R32). -/
inductive Phase where
  | dir | step | upd | done
  deriving DecidableEq, Repr

/-- `tmr` (10_state R32). -/
structure Timer where
  reload : Nat
  onePulse : Bool
  armed : Bool
  phase : Phase
  cmpDir : Nat
  cmpStep : Nat
  dirPend : Bool
  stepPend : Bool
  updPend : Bool
  fireDir : Bool
  fireStep : Bool
  deriving DecidableEq, Repr

/-- `status`: the sticky bits S_RANGE and S_SHORT (10_state R33, 60_exceptions R132). -/
structure Status where
  sRange : Bool
  sShort : Bool
  deriving DecidableEq, Repr

/-- The status bits (60_exceptions R132). -/
inductive StatusBit where
  | sRange | sShort
  deriving DecidableEq, Repr

/-- The number of a status bit in the status word (60_exceptions R132, the table's column Bit). -/
def StatusBit.number : StatusBit → Fin 2
  | .sRange => 0
  | .sShort => 1

/-- Whether a status bit is set. -/
def Status.get (s : Status) : StatusBit → Bool
  | .sRange => s.sRange
  | .sShort => s.sShort

/-- The status word: each status bit at its number (60_exceptions R132). -/
def Status.word (s : Status) : BitVec 2 :=
  ((BitVec.ofBool (s.get .sRange)).setWidth 2 <<< StatusBit.sRange.number.val) |||
    ((BitVec.ofBool (s.get .sShort)).setWidth 2 <<< StatusBit.sShort.number.val)

/-- The two guarded operations (44_host_interface R118, R119, R121). -/
inductive GuardedOp where
  | configure | trigger
  deriving DecidableEq, Repr

/-- A recorded fault, with what is recorded with it (60_exceptions R133). -/
inductive FaultRecord where
  /-- F_HOST_PROTOCOL: a guarded operation issued while stepping is active (44_host_interface R118). -/
  | hostProtocol (op : GuardedOp)
  /-- F_STOP_STEP: a zero-duration Step with a step flag set (42_dispatch_executor R102). -/
  | stopStep (s : Step)
  /-- F_POS_OVERFLOW: a position component left its range (43_pulse_sequencer R111). -/
  | posOverflow (a : Axis)
  deriving DecidableEq, Repr

/-- The code of a recorded fault (60_exceptions R133). -/
def FaultRecord.code : FaultRecord → Nat
  | .hostProtocol _ => 1
  | .stopStep _ => 2
  | .posOverflow _ => 3

/-- The context a held dispatch was entered from; `none` of it is `core.stall = NONE` (10_state R39). -/
inductive Context where
  | isr | fg
  deriving DecidableEq, Repr

/-- An entry of `trace` (10_state R40). -/
inductive TraceEvent where
  | linesReset
  | dirAsserted (a : Axis)
  | stepAsserted (a : Axis)
  | armed (reload : Nat)
  deriving DecidableEq, Repr

/-- The operands of CONFIGURE (44_host_interface R119). -/
structure ConfigureArgs where
  clockFreq : ConfigReal
  stepsPerMm : ConfigReal
  maxSpeed : ConfigReal
  maxAccel : ConfigReal
  deadzone : ConfigReal
  minFeed : ConfigReal
  maxFeed : ConfigReal
  zeroX : Byte
  zeroY : Byte
  deriving DecidableEq, Repr

/-- The operations of the host and the foreground (44_host_interface R119 to R126). -/
inductive HostOp where
  | configure (args : ConfigureArgs)
  | setState (v : OpState)
  | trigger
  | calibrate
  | push (b : Byte)
  | recordEvent (e : Event)
  | read
  | clearStatus
  deriving DecidableEq, Repr

/-- One move of one agent (00_scope R17): CORE, TIMER, FG or HOST with the operation it issues, ADC with the sample it
writes (44_host_interface R127). -/
inductive Move where
  | core
  | timer
  | host (op : HostOp)
  | adc (ch : Channel) (v : Byte)
  deriving DecidableEq, Repr

/-- The state of the block, the parameters it runs with, and the two fields of the model's own: the moves the agents make
next (`env`, log 1) and the index of the next free value (`draws`, log 5). -/
structure State where
  pos : PerAxis Coord
  params : Params
  opState : OpState
  lastEvent : Option Event
  curStep : Step
  mcs : ManualControlStatus
  running : Bool
  dirLine : PerAxis Bool
  stepLine : PerAxis Bool
  tmr : Timer
  status : Status
  faults : List FaultRecord
  fifo : List Byte
  streamPos : Nat
  raw : PerChannel Byte
  stall : Option Context
  trace : List TraceEvent
  cfg : BlockConfig
  env : List Move
  draws : Nat
  deriving DecidableEq, Repr

/-- Why the machine stops with a fault: never. The block raises no exception and takes no trap (60_exceptions R130); its fault
codes are recorded in `State.faults` and the run goes on (60_exceptions R133). Nobody raises this type, which is safe (log 18). -/
inductive Fault
  deriving DecidableEq, Repr

/-- Why an instruction has no meaning. -/
inductive Refusal where
  /-- Raised by an arm of `exec` whose instruction has no meaning yet; no arm does, and it would be safe. -/
  | notModelled (mnemonic : String)
  deriving DecidableEq, Repr

/-- The configuration argument of the model: the parameters of 00_scope R9 that a state after reset takes. -/
structure ModelArgs where
  params : Params
  deadzone : ConfigReal
  minFeed : ConfigReal
  maxFeed : ConfigReal
  cmpDir : Nat
  cmpStep : Nat
  /-- ZERO_INIT. -/
  zeroInit : PerChannel Byte
  raw : PerChannel Byte
  cfg : BlockConfig
  deriving DecidableEq, Repr

/-- The state after reset of a block with the given parameters (70_reset_and_hazards R144). -/
def State.resetWith (a : ModelArgs) : State where
  pos := .all 0
  params := a.params
  opState := .ready
  lastEvent := none
  curStep := .zero
  mcs := {
    last := ⟨.ofRat 0, .ofRat 0⟩
    deadzone := a.deadzone
    minFeed := a.minFeed
    maxFeed := a.maxFeed
    zero := a.zeroInit
    n := 0
    previousCoord := .ofRat 0
    newCoord := .ofRat 0 }
  running := false
  dirLine := .all false
  stepLine := .all false
  tmr := {
    reload := 0
    onePulse := false
    armed := false
    phase := .done
    cmpDir := a.cmpDir
    cmpStep := a.cmpStep
    dirPend := false
    stepPend := false
    updPend := false
    fireDir := false
    fireStep := false }
  status := ⟨false, false⟩
  faults := []
  fifo := []
  streamPos := 0
  raw := a.raw
  stall := none
  trace := []
  cfg := a.cfg
  env := []
  draws := 0

/-- The parameters as 00_scope R9 gives them, the OPEN ones uninterpreted (log 8), and the samples a free value (log 6). -/
def ModelArgs.given : ModelArgs where
  params := ⟨Config.clockFreq, Config.stepsPerMm, Config.maxSpeed, Config.maxAccel⟩
  deadzone := Config.deadzone
  minFeed := Config.minFeed
  maxFeed := Config.maxFeed
  cmpDir := Config.cmpDir
  cmpStep := Config.cmpStep
  zeroInit := ⟨128, 128⟩
  raw := ⟨Config.freeSample .x, Config.freeSample .y⟩
  cfg := .given

/-- The state after reset (70_reset_and_hazards R144). -/
def State.reset : State := State.resetWith .given

end Sys2Proof.Machine
end

