-- ==== Sys2Proof/Machine/Flags.lean ====
section
/-! DEFINITION. Every status bit's computation: S_RANGE with the value it goes with (41_step_interpolator R80,
42_dispatch_executor R99), and S_SHORT (42_dispatch_executor R100). -/

namespace Sys2Proof.Machine

/-- A tick count and whether it was out of range, so that S_RANGE is set. -/
structure Narrowed where
  value : Nat
  outOfRange : Bool
  deriving DecidableEq, Repr

/-- A natural number as a tick count of the given width under RANGE_POLICY (41_step_interpolator R80, 42_dispatch_executor
R99). -/
def narrow (policy : RangePolicy) (width v : Nat) : Narrowed :=
  if v < 2 ^ width then ⟨v, false⟩
  else
    match policy with
    | .wrap => ⟨v % 2 ^ width, true⟩
    | .saturate => ⟨2 ^ width - 1, true⟩

/-- `to_u16` of a quotient whose floor is given, `none` where the quotient is not finite; `free` is the draw from u16
(41_step_interpolator R80). -/
def toTicks (policy : RangePolicy) (free : Ticks) (q : Option Int) : Narrowed :=
  match q with
  | none => ⟨free.toNat, true⟩
  | some k =>
    if k < 0 then ⟨free.toNat, true⟩
    else if k = 0 then ⟨0, true⟩
    else narrow policy 16 k.toNat

/-- The duration scaled for `k` active axes, before its range is checked (42_dispatch_executor R99). -/
def scaledDuration (d : Ticks) (k : Nat) : Nat :=
  if k ≤ 1 then d.toNat
  else if k = 2 then (isqrt (8 * d.toNat * d.toNat) + 1) / 2
  else (isqrt (12 * d.toNat * d.toNat) + 1) / 2

/-- `scale`, for a timer of the given width: "The 16-bit limit is TIMER_WIDTH" (42_dispatch_executor R99). -/
def scale (policy : RangePolicy) (width : Nat) (d : Ticks) (k : Nat) : Narrowed := narrow policy width (scaledDuration d k)

/-- S_RANGE is set, and stays set (10_state R33). -/
def State.noteRange (s : State) (outOfRange : Bool) : State :=
  { s with status := { s.status with sRange := s.status.sRange || outOfRange } }

/-- A period of reload `v` is short: not longer than CMP_STEP (43_pulse_sequencer R114). -/
def State.isShort (s : State) (v : Nat) : Bool := decide (v ≤ s.tmr.cmpStep)

end Sys2Proof.Machine
end

