-- ==== Sys2Proof/WellFormed.lean ====
section
/-! DEFINITION. The one condition on a decoded record: a STEP's duration is not 0 (30_encoding R62, the table's
"W[15:0] != 0"). -/

namespace Sys2Proof

/-- A record is well formed when it is the form its duration selects (30_encoding R62). -/
def Instr.wf : Instr → Bool
  | .stop _ _ => true
  | .step duration _ _ => duration != 0

end Sys2Proof
end

