-- ==== Sys2Proof/Decode.lean ====
section
/-! DEFINITION. Step records: the decoder (40_step_record R69), the encoder (R70), the record notation of 30_encoding R66 and
R67, and the host's `decodeTableWord`. -/

namespace Sys2Proof

/-! Decoding. -/

/-- The duration of a record: B1 in the high byte, B0 in the low byte (20_memory R45, 30_encoding R60). -/
def recordDuration (b0 b1 : Byte) : Ticks := (b1 ++ b0).setWidth 16

/-- The direction flags a flag byte holds under a layout (30_encoding R58, R59). -/
def recordDir (l : FlagLayout) (b2 : Byte) : PerAxis Bool :=
  ⟨b2.getLsbD l.xDir, b2.getLsbD l.yDir, b2.getLsbD l.zDir⟩

/-- The step flags a flag byte holds under a layout (30_encoding R58, R59). -/
def recordStep (l : FlagLayout) (b2 : Byte) : PerAxis Bool :=
  ⟨b2.getLsbD l.xStep, b2.getLsbD l.yStep, b2.getLsbD l.zStep⟩

/-- The record a Step is: STOP when its duration is 0, STEP otherwise (30_encoding R62). -/
def Step.toInstr (s : Step) : Instr :=
  if s.duration = 0 then .stop s.dir s.step else .step s.duration s.dir s.step

/-- The Step a record stands for (40_step_record R69). -/
def Instr.toStep : Instr → Step
  | .stop dirs steps => ⟨0, dirs, steps⟩
  | .step duration dirs steps => ⟨duration, dirs, steps⟩

/-- The Step three bytes decode to; the two bits no flag occupies are ignored (40_step_record R69, 30_encoding R63). -/
def decodeStep (l : FlagLayout) (b0 b1 b2 : Byte) : Step :=
  ⟨recordDuration b0 b1, recordDir l b2, recordStep l b2⟩

/-- The record three bytes decode to; every three bytes are a record (30_encoding R64). -/
def decodeRecord (l : FlagLayout) (b0 b1 b2 : Byte) : Instr := (decodeStep l b0 b1 b2).toInstr

/-- Why bytes give no record. -/
inductive DecodeReject where
  /-- Fewer than three bytes are present: the reader holds until there are three (20_memory R48). -/
  | starved (present : Nat)
  deriving DecidableEq, Repr

/-- The first record of a byte stream and the bytes after it (40_step_record R69). -/
def decode (l : FlagLayout) : List Byte → Except DecodeReject (Instr × List Byte)
  | b0 :: b1 :: b2 :: rest => .ok (decodeRecord l b0 b1 b2, rest)
  | bs => .error (.starved bs.length)

/-! Encoding. -/

/-- A byte with bit `p` set to `b` and every other bit 0. -/
def flagBit (b : Bool) (p : Fin 8) : Byte := if b then BitVec.twoPow 8 p else 0

/-- The flag byte of a Step; the bits no flag occupies are 0 (40_step_record R70, 30_encoding R63). -/
def encodeFlags (l : FlagLayout) (dir step : PerAxis Bool) : Byte :=
  flagBit dir.x l.xDir ||| flagBit step.x l.xStep ||| flagBit dir.y l.yDir |||
    flagBit step.y l.yStep ||| flagBit dir.z l.zDir ||| flagBit step.z l.zStep

/-- The three bytes of a Step, in stream order (40_step_record R70). -/
def encodeStep (l : FlagLayout) (s : Step) : List Byte :=
  [s.duration.setWidth 8, (s.duration >>> 8).setWidth 8, encodeFlags l s.dir s.step]

/-- The bytes of a record (40_step_record R70). -/
def encode (l : FlagLayout) (i : Instr) : List Byte := encodeStep l i.toStep

/-! The word view of 30_encoding R58. -/

/-- W = B0 + 2^8 B1 + 2^16 B2 (30_encoding R58). -/
def recordWord (b0 b1 b2 : Byte) : Nat := b0.toNat + 2 ^ 8 * b1.toNat + 2 ^ 16 * b2.toNat

/-- The three bytes of the record whose bits are `w`, in stream order; bits from `nbits` up are 0. -/
def tableBytes (nbits w : Nat) : List Byte :=
  let v := w % 2 ^ nbits
  [BitVec.ofNat 8 v, BitVec.ofNat 8 (v / 2 ^ 8), BitVec.ofNat 8 (v / 2 ^ 16)]

/-- The instruction the decoder reads from a table row's word, under the default layout. -/
def decodeTableWord (nbits w : Nat) : Option Instr :=
  match decode .default (tableBytes nbits w) with
  | .ok (i, _) => some i
  | .error _ => none

/-! The record notation of 30_encoding R66 and R67. -/

/-- What the notation says of one axis (30_encoding R66). -/
inductive AxisMark where
  /-- `X+`: step 1, direction 1. -/
  | plus
  /-- `X-`: step 1, direction 0. -/
  | minus
  /-- `x+`: step 0, direction 1. -/
  | dirOnly
  /-- The axis does not appear: step 0, direction 0. -/
  | absent
  deriving DecidableEq, Repr

/-- The direction flag of a mark. -/
def AxisMark.dir : AxisMark → Bool
  | .plus => true
  | .minus => false
  | .dirOnly => true
  | .absent => false

/-- The step flag of a mark. -/
def AxisMark.step : AxisMark → Bool
  | .plus => true
  | .minus => true
  | .dirOnly => false
  | .absent => false

/-- A line of the notation (30_encoding R66, R67); an axis stands at most once, so a line holds one mark per axis. -/
inductive RecordLine where
  | step (duration : Ticks) (axes : PerAxis AxisMark)
  | stop
  | nop (duration : Ticks)
  | bytes (b0 b1 b2 : Byte)
  deriving DecidableEq, Repr

/-- The bytes a line of the notation stands for (30_encoding R66, R67). -/
def RecordLine.assemble (l : FlagLayout) : RecordLine → List Byte
  | .step d axes =>
    encodeStep l ⟨d, ⟨axes.x.dir, axes.y.dir, axes.z.dir⟩, ⟨axes.x.step, axes.y.step, axes.z.step⟩⟩
  | .stop => encodeStep l .zero
  | .nop d => encodeStep l ⟨d, .all false, .all false⟩
  | .bytes b0 b1 b2 => [b0, b1, b2]

end Sys2Proof
end

