-- ==== Sys2Proof/Machine/Operands.lean ====
section
/-! DEFINITION. What the operations read: the axes a Step pulses, and the displacement of the joystick. -/

namespace Sys2Proof

/-- Some axis of the Step has its step flag set (42_dispatch_executor R102). -/
def Step.pulses (s : Step) : Bool := s.step.x || s.step.y || s.step.z

/-- The number of axes whose step flag is set, 0 to 3 (42_dispatch_executor R96). -/
def Step.activeAxes (s : Step) : Nat := s.step.x.toNat + s.step.y.toNat + s.step.z.toNat

namespace Machine

/-- `raw - zero` per channel, subtracted in the integers (41_step_interpolator R74, R75). -/
def State.displacement (s : State) : PerChannel Int :=
  ⟨(s.raw.x.toNat : Int) - s.mcs.zero.x.toNat, (s.raw.y.toNat : Int) - s.mcs.zero.y.toNat⟩

/-- `active`: stepping is in progress (44_host_interface R118). -/
def State.active (s : State) : Bool :=
  s.running || s.tmr.armed || s.tmr.dirPend || s.tmr.stepPend || s.tmr.updPend || s.stall.isSome

/-- A latch is set (43_pulse_sequencer R108). -/
def State.latched (s : State) : Bool := s.tmr.dirPend || s.tmr.stepPend || s.tmr.updPend

end Machine
end Sys2Proof
end

