-- ==== Sys2Proof/Machine/Ops.lean ====
section
/-! DEFINITION. The shared operations over the state: recording a fault (the block takes no exception, 60_exceptions R130), the
output lines, the program byte source. -/

namespace Sys2Proof.Machine

/-- `raise Fault(code)`: the fault is recorded and the run goes on (60_exceptions R133). The faults are a set: one already
there is not recorded again (10_state R34; log 13). -/
def State.raiseFault (s : State) (f : FaultRecord) : State :=
  if f ∈ s.faults then s else { s with faults := s.faults ++ [f] }

/-- All six output lines become inactive (42_dispatch_executor R97). -/
def State.resetLines (s : State) : State :=
  { s with dirLine := .all false, stepLine := .all false, trace := s.trace ++ [.linesReset] }

/-- A direction line is asserted (43_pulse_sequencer R109). -/
def State.assertDir (s : State) (a : Axis) : State :=
  { s with dirLine := s.dirLine.set a true, trace := s.trace ++ [.dirAsserted a] }

/-- A step line is asserted (43_pulse_sequencer R110). -/
def State.assertStep (s : State) (a : Axis) : State :=
  { s with stepLine := s.stepLine.set a true, trace := s.trace ++ [.stepAsserted a] }

/-- `for a in axes` (00_scope R12). -/
def forAxes (f : Axis → State → State) (s : State) : State := f .z (f .y (f .x s))

/-- The byte source takes a byte (44_host_interface R123). -/
def State.hasRoom (s : State) : Bool :=
  match s.cfg.fifoCap with
  | none => true
  | some c => decide (s.fifo.length < c)

/-- `PushByte` (00_scope R14). -/
def State.pushByte (s : State) (b : Byte) : State := { s with fifo := s.fifo ++ [b] }

/-- `PopBytes(3)` and the decoder: the next record and the state with it removed, or none where fewer than three bytes are
present and the caller holds (40_step_record R69, 20_memory R47, R48). -/
def State.popRecord (s : State) : Option (Instr × State) :=
  match decode s.cfg.flagLayout s.fifo with
  | .ok (i, rest) => some (i, { s with fifo := rest, streamPos := s.streamPos + 3 })
  | .error _ => none

end Sys2Proof.Machine
end

