-- ==== Sys2Proof/Machine/Executor.lean ====
section
/-! DEFINITION. The Step Executor (42_dispatch_executor R96 to R102). -/

namespace Sys2Proof.Machine

/-- `arm(v)`: the timer's reload is programmed, one-shot mode selected, and the timer started (42_dispatch_executor R100).
Whether a compare event whose offset is not inside the period fires is a draw (43_pulse_sequencer R114; log 5). -/
def State.arm (s : State) (v : Nat) : State :=
  { s with
    tmr := { s.tmr with
      reload := v
      onePulse := true
      dirPend := false
      stepPend := false
      updPend := false
      fireDir := decide (s.tmr.cmpDir < v) || Config.freeBit s.draws
      fireStep := decide (s.tmr.cmpStep < v) || Config.freeBit (s.draws + 1)
      phase := .dir
      armed := true }
    status := { s.status with sShort := s.status.sShort || s.isShort v }
    trace := s.trace ++ [.armed v]
    draws := s.draws + 2 }

/-- The branch of a Step with a duration: the period is its duration, scaled for the active axes (42_dispatch_executor
R99, R100). -/
def State.startCycle (s : State) (st : Step) : State :=
  (s.noteRange (scale s.cfg.rangePolicy s.cfg.timerWidth st.duration st.activeAxes).outOfRange).arm
    (scale s.cfg.rangePolicy s.cfg.timerWidth st.duration st.activeAxes).value

/-- The branch of a zero-duration Step: the machine is marked as not running and an idle period started
(42_dispatch_executor R101); a step flag set records F_STOP_STEP first (R102). -/
def State.startIdle (s : State) (st : Step) : State :=
  { (if st.pulses then s.raiseFault (.stopStep st) else s) with running := false }.arm s.cfg.idleReload

/-- EXECUTE (42_dispatch_executor R96): lines reset (R97), `curStep` stored (R98), timer armed. -/
def State.execute (s : State) (st : Step) : State :=
  if st.duration = 0 then { s.resetLines with curStep := st }.startIdle st
  else { s.resetLines with curStep := st }.startCycle st

end Sys2Proof.Machine
end

