-- ==== Sys2Proof/Machine/StepRecords.lean ====
section
/-! DEFINITION. The meanings of the two records: what the dispatch that decoded one does with it (40_step_record R71, R72).
The removal of its bytes is the fetch's part (`State.popRecord`), and the rest of its cycle is done by the timer's events
through `curStep` (43_pulse_sequencer R109 to R112; log 4). -/

namespace Sys2Proof.Machine

/-- STOP (40_step_record R71): `running ← 1` at entry, then the Step of duration 0 is executed. -/
def execStop (dirs steps : PerAxis Bool) (s : State) : Host.Outcome State Fault Refusal :=
  .next ({ s with running := true }.execute ⟨0, dirs, steps⟩)

/-- STEP (40_step_record R72): `running ← 1` at entry, then the Step is executed. -/
def execStep (duration : Ticks) (dirs steps : PerAxis Bool) (s : State) : Host.Outcome State Fault Refusal :=
  .next ({ s with running := true }.execute ⟨duration, dirs, steps⟩)

end Sys2Proof.Machine
end

