-- ==== Sys2Proof/Machine/Dispatch.lean ====
section
/-! DEFINITION. The meaning of each record, arm by arm. -/

namespace Sys2Proof.Machine

def exec (i : Instr) (s : State) : Host.Outcome State Fault Refusal :=
  match i with
  -- R71
  | .stop dirs steps => Sys2Proof.Machine.execStop dirs steps s
  -- R72
  | .step duration dirs steps => Sys2Proof.Machine.execStep duration dirs steps s

end Sys2Proof.Machine
end

