-- ==== Sys2Proof/Machine/Arithmetic.lean ====
section
/-! DEFINITION. The arithmetics NUMERICS selects from (41_step_interpolator R73): the reference, exact real arithmetic on
expressions (log 9), and those of implementations (log 20). An operation on two surds is carried out, any other is written
down, so that a rational configuration is computed with. -/

namespace Sys2Proof

/-- The configured real as an expression. -/
def ConfigReal.expr : ConfigReal → RealExpr
  | .rat a => .num ⟨a, 0⟩
  | .given i => .given i

/-- Sum. -/
def RealExpr.plus : RealExpr → RealExpr → RealExpr
  | .num p, .num q => .num (p.add q)
  | a, b => .add a b

/-- Negation. -/
def RealExpr.minus : RealExpr → RealExpr
  | .num p => .num p.neg
  | a => .neg a

/-- Product. -/
def RealExpr.times (rad : Nat) : RealExpr → RealExpr → RealExpr
  | .num p, .num q => .num (p.mul rad q)
  | a, b => .mul a b

/-- Quotient; that by 0 is 0 here, and every rule that divides says what happens there. -/
def RealExpr.dividedBy (rad : Nat) (a b : RealExpr) : RealExpr :=
  a.times rad (match b with
    | .num p => .num (p.inv rad)
    | b => .inv b)

/-- The greatest integer at most the number (00_scope R13): computed where no named real occurs, else as the named reals have
it. -/
def RealExpr.floor (rad : Nat) (a : RealExpr) : Int :=
  if a.closed then (a.surd rad).floor rad else Config.reals.floor ⟨rad, a⟩

/-- The order. -/
def RealExpr.le (rad : Nat) (a b : RealExpr) : Bool := decide (0 ≤ (b.plus a.minus).floor rad)

/-- The nearest integer, ties away from zero (00_scope R13, D8). -/
def RealExpr.round (rad : Nat) (a : RealExpr) : Int :=
  if 0 ≤ a.floor rad then (a.plus (.num ⟨1 / 2, 0⟩)).floor rad else -(a.minus.plus (.num ⟨1 / 2, 0⟩)).floor rad

/-- Two numbers are equal. -/
def Number.same (a b : Number) : Bool :=
  if a.expr.closed && b.expr.closed then (a.expr.surd a.rad).same a.rad b.rad (b.expr.surd b.rad)
  else Config.reals.same a b

/-- Both comparisons with 0 hold. -/
def Arithmetic.isZero (ar : Arithmetic) (a : RealExpr) : Bool := ar.le a (ar.int 0) && ar.le (ar.int 0) a

/-- The lesser of two numbers. -/
def Arithmetic.min (ar : Arithmetic) (a b : RealExpr) : RealExpr := if ar.le a b then a else b

/-- The greater of two numbers. -/
def Arithmetic.max (ar : Arithmetic) (a b : RealExpr) : RealExpr := if ar.le a b then b else a

/-- Absolute value. -/
def Arithmetic.abs (ar : Arithmetic) (a : RealExpr) : RealExpr := if ar.le (ar.int 0) a then a else ar.sub (ar.int 0) a

/-- Exact real arithmetic for the call whose displacement has the squared length `rad`: the magnitude is then the 128th part of
the root of `rad` (41_step_interpolator R76). -/
def exactArithmetic (rad : Nat) : Arithmetic where
  int k := .num ⟨k, 0⟩
  normalise d := .num ⟨d / 128, 0⟩
  magnitude _ := .num ⟨0, 1 / 128⟩
  add := RealExpr.plus
  sub a b := a.plus b.minus
  mul := RealExpr.times rad
  div := RealExpr.dividedBy rad
  quotient clock feed steps :=
    if (feed.le rad (.num ⟨0, 0⟩) && RealExpr.le rad (.num ⟨0, 0⟩) feed) ||
      (steps.le rad (.num ⟨0, 0⟩) && RealExpr.le rad (.num ⟨0, 0⟩) steps) then none
    else some ((clock.dividedBy rad feed).dividedBy rad steps)
  le := RealExpr.le rad
  floor := RealExpr.floor rad
  round := RealExpr.round rad
  same := Number.same

/-- The arithmetic NUMERICS selects, for a call whose displacement has the squared length `rad`. -/
def Numerics.arithmetic (rad : Nat) : Numerics → Arithmetic
  | .exact => exactArithmetic rad
  | .implementation i => Config.arithmetic i

end Sys2Proof
end

