-- ==== Sys2Proof/Machine/Interpolator.lean ====
section
/-! DEFINITION. `step_interpolator`, the Manual Interpolator (41_step_interpolator R73 to R85), over the arithmetic NUMERICS
selects. -/

namespace Sys2Proof.Machine

/-- A vector and its magnitude. -/
structure Deflection where
  x : RealExpr
  y : RealExpr
  m : RealExpr
  deriving DecidableEq, Repr

/-- The squared length of the displacement. -/
def State.rootRad (s : State) : Nat :=
  (s.displacement.x * s.displacement.x + s.displacement.y * s.displacement.y).toNat

/-- The arithmetic of one call (41_step_interpolator R73). -/
def State.arithmetic (s : State) : Arithmetic := s.cfg.numerics.arithmetic s.rootRad

/-- Steps 1 and 2: the vector `(raw - zero) / 128` and its magnitude, clamped to 1 (41_step_interpolator R75, R76). -/
def rawDeflection (ar : Arithmetic) (d : PerChannel Int) : Deflection where
  x := ar.normalise d.x
  y := ar.normalise d.y
  m := ar.min (ar.magnitude d) (ar.int 1)

/-- Step 3: the deadzone of radius `r` (41_step_interpolator R77). A divisor of 0 needs a negative radius, which no legal
configuration has; the factor then multiplies zeros only (log 11). -/
def applyDeadzone (ar : Arithmetic) (r : RealExpr) (v : Deflection) : Deflection :=
  if ar.le v.m r then ⟨ar.int 0, ar.int 0, ar.int 0⟩
  else
    let factor := ar.max (ar.int 0) (ar.div (ar.sub v.m r) (ar.mul (ar.sub (ar.int 1) r) v.m))
    ⟨ar.mul factor v.x, ar.mul factor v.y, ar.mul factor v.m⟩

/-- The vector and magnitude of one call, after step 3. -/
def State.deflection (s : State) : Deflection :=
  applyDeadzone s.arithmetic s.mcs.deadzone.expr (rawDeflection s.arithmetic s.displacement)

/-- The vector as it is stored. -/
def Deflection.vector (rad : Nat) (v : Deflection) : PerChannel Number := ⟨⟨rad, v.x⟩, ⟨rad, v.y⟩⟩

/-- Step 4: a changed vector is stored and restarts the line (41_step_interpolator R78). -/
def ManualControlStatus.retarget (ar : Arithmetic) (c : ManualControlStatus) (v : PerChannel Number) : ManualControlStatus :=
  if ar.same v.x c.last.x && ar.same v.y c.last.y then c else { c with n := 0, last := v }

/-- Step 5: the feed in units per second (41_step_interpolator R79). -/
def feedPerSec (ar : Arithmetic) (c : ManualControlStatus) (m : RealExpr) : RealExpr :=
  ar.div (ar.add c.minFeed.expr (ar.mul m (ar.sub c.maxFeed.expr c.minFeed.expr))) (ar.int 60)

/-- Step 5: the floor of the quotient `clockFreq / feedPerSec / stepsPerMm`, none where the quotient is not finite
(41_step_interpolator R79, R80). -/
def durationFloor (ar : Arithmetic) (p : Params) (feed : RealExpr) : Option Int :=
  (ar.quotient p.clockFreq.expr feed p.stepsPerMm.expr).map ar.floor

/-- The major axis is x: `|x| ≥ |y|`, a tie going to x (41_step_interpolator R82, D10). -/
def Deflection.xMajor (ar : Arithmetic) (v : Deflection) : Bool := ar.le (ar.abs v.y) (ar.abs v.x)

/-- Step 7b: the slope `|minor| / |major|` (41_step_interpolator R83). -/
def Deflection.slope (ar : Arithmetic) (v : Deflection) : RealExpr :=
  if v.xMajor ar then ar.div (ar.abs v.y) (ar.abs v.x) else ar.div (ar.abs v.x) (ar.abs v.y)

/-- The interpolation counter one higher, in COUNTER_WIDTH bits (41_step_interpolator R83; log 21). -/
def nextCount (width : Option Nat) (n : Nat) : Nat :=
  match width with
  | none => n + 1
  | some w => (n + 1) % 2 ^ w

/-- Step 7b: the counter and the two coordinates after one call (41_step_interpolator R83); `n` is the counter's new value. -/
def ManualControlStatus.advance (ar : Arithmetic) (rad : Nat) (slope : RealExpr) (n : Nat) (c : ManualControlStatus) :
    ManualControlStatus :=
  { c with
    n := n
    previousCoord := ⟨rad, ar.mul (ar.int (n - 1)) slope⟩
    newCoord := ⟨rad, ar.mul (ar.int n) slope⟩ }

/-- Step 7b: the minor axis steps when the rounded coordinate changes (41_step_interpolator R83). -/
def ManualControlStatus.minorSteps (ar : Arithmetic) (c : ManualControlStatus) : Bool :=
  ar.round c.newCoord.expr != ar.round c.previousCoord.expr

/-- Steps 6 and 7: the Step of a call with a magnitude (41_step_interpolator R81, R82, R83). -/
def manualStepOf (ar : Arithmetic) (v : Deflection) (duration : Ticks) (minor : Bool) : Step where
  duration := duration
  dir := ⟨ar.le (ar.int 0) v.x, ar.le (ar.int 0) v.y, false⟩
  step := if v.xMajor ar then ⟨true, minor, false⟩ else ⟨minor, true, false⟩

/-- MANUAL_STEP: the Step and the state after it (41_step_interpolator R85). -/
def State.manualStep (s : State) : Step × State :=
  let ar := s.arithmetic
  let v := s.deflection
  let c := s.mcs.retarget ar (v.vector s.rootRad)
  if ar.isZero v.m then (.zero, { s with mcs := c })
  else
    let d := toTicks s.cfg.rangePolicy (Config.freeTicks s.draws) (durationFloor ar s.params (feedPerSec ar c v.m))
    let c' := c.advance ar s.rootRad (v.slope ar) (nextCount s.cfg.counterWidth c.n)
    (manualStepOf ar v (BitVec.ofNat 16 d.value) (c'.minorSteps ar),
      { s.noteRange d.outOfRange with mcs := c', draws := s.draws + 1 })

end Sys2Proof.Machine
end

