-- ==== Sys2Proof/Machine/Sequencer.lean ====
section
/-! DEFINITION. Step Dispatch (42_dispatch_executor R89 to R94), the timer's events, the interrupt handler, and
`position_accumulator` (43_pulse_sequencer R104 to R113). -/

namespace Sys2Proof.Machine

/-- DISPATCH entered from a context (42_dispatch_executor R94); on a short stream it holds (20_memory R48, 10_state R39). -/
def State.dispatch (s : State) (ctx : Context) : Host.Outcome State Fault Refusal :=
  match s.opState with
  | .manualControl =>
    let p := { s with running := true }.manualStep
    .next (p.2.execute p.1)
  | .runningProgram =>
    match { s with running := true }.popRecord with
    | some (i, t) => exec i t
    | none => .next { s with running := true, stall := some ctx }
  | .ready => .next { s with running := false }

/-- The resume of a held dispatch: it decodes, executes and is held no more (43_pulse_sequencer R113); on a short stream
nothing happens. -/
def State.resume (s : State) : Host.Outcome State Fault Refusal :=
  match { s with stall := none }.popRecord with
  | some (i, t) => exec i t
  | none => .next s

/-- DIR_EVENT (43_pulse_sequencer R109). -/
def State.onDir (s : State) : State :=
  forAxes (fun a t => if t.curStep.dir.get a != t.cfg.dirPolarity.get a then t.assertDir a else t) s

/-- The integer lies in the two's-complement range of the width (00_scope R11, POS_WIDTH). -/
def fitsSigned (width : Nat) (v : Int) : Bool := decide (-2 ^ (width - 1) ≤ v ∧ v ≤ 2 ^ (width - 1) - 1)

/-- The integer as a two's-complement number of the width (00_scope R11, 43_pulse_sequencer R111). -/
def wrapSigned (width : Nat) (v : Int) : Int := v.bmod (2 ^ width)

/-- One axis of TRACK (43_pulse_sequencer R111): the sum is taken in the integers, and the value wraps. -/
def State.trackAxis (st : Step) (a : Axis) (s : State) : State :=
  if st.step.get a then
    let v : Int := s.pos.get a + if st.dir.get a then 1 else -1
    let t := if fitsSigned s.cfg.posWidth v then s else s.raiseFault (.posOverflow a)
    { t with pos := t.pos.set a (wrapSigned s.cfg.posWidth v) }
  else s

/-- TRACK, the `position_accumulator` (43_pulse_sequencer R111). -/
def State.track (s : State) (st : Step) : State := forAxes (State.trackAxis st) s

/-- STEP_EVENT (43_pulse_sequencer R110): the step lines, then the position. -/
def State.onStep (s : State) : State :=
  (forAxes (fun a t => if t.curStep.step.get a then t.assertStep a else t) s).track s.curStep

/-- UPDATE_EVENT (43_pulse_sequencer R112). -/
def State.onUpdate (s : State) : Host.Outcome State Fault Refusal := { s with running := false }.dispatch .isr

/-- A latched direction-compare event is cleared and served (43_pulse_sequencer R108). -/
def State.serveDir (s : State) : State :=
  if s.tmr.dirPend then { s with tmr := { s.tmr with dirPend := false } }.onDir else s

/-- A latched step-compare event is cleared and served (43_pulse_sequencer R108). -/
def State.serveStep (s : State) : State :=
  if s.tmr.stepPend then { s with tmr := { s.tmr with stepPend := false } }.onStep else s

/-- A latched update event is cleared and served (43_pulse_sequencer R108). -/
def State.serveUpdate (s : State) : Host.Outcome State Fault Refusal :=
  if s.tmr.updPend then { s with tmr := { s.tmr with updPend := false } }.onUpdate else .next s

/-- The interrupt handler: direction, then step, then update (43_pulse_sequencer R108). -/
def State.handler (s : State) : Host.Outcome State Fault Refusal := s.serveDir.serveStep.serveUpdate

/-- A step of CORE, none where it has none enabled (43_pulse_sequencer R108, R113). -/
def State.coreStep (s : State) : Option (Host.Outcome State Fault Refusal) :=
  match s.stall with
  | none => if s.latched then some s.handler else none
  | some _ => if 3 ≤ s.fifo.length then some s.resume else none

/-- A step of TIMER, none where it has none enabled (43_pulse_sequencer R104 to R107). -/
def State.timerStep (s : State) : Option State :=
  if s.tmr.armed then
    match s.tmr.phase with
    | .dir => some { s with tmr := { s.tmr with dirPend := s.tmr.dirPend || s.tmr.fireDir, phase := .step } }
    | .step => some { s with tmr := { s.tmr with stepPend := s.tmr.stepPend || s.tmr.fireStep, phase := .upd } }
    | .upd => some { s with tmr := { s.tmr with updPend := true, armed := false, phase := .done } }
    | .done => none
  else none

end Sys2Proof.Machine
end

