-- ==== Sys2Proof/Machine/HostOps.lean ====
section
/-! DEFINITION. The operations of the host, the foreground and the environment (44_host_interface R118 to R127), and the move
of an agent. -/

namespace Sys2Proof.Machine

/-- CONFIGURE, past its guard (44_host_interface R119). -/
def State.configure (s : State) (c : ConfigureArgs) : State :=
  { s with
    params := ⟨c.clockFreq, c.stepsPerMm, c.maxSpeed, c.maxAccel⟩
    mcs := { s.mcs with
      deadzone := c.deadzone
      minFeed := c.minFeed
      maxFeed := c.maxFeed
      zero := ⟨c.zeroX, c.zeroY⟩ } }

/-- One operation of the host or the foreground (44_host_interface R118 to R126). -/
def State.hostStep (s : State) : HostOp → Host.Outcome State Fault Refusal
  | .configure c => .next (if s.active then s.raiseFault (.hostProtocol .configure) else s.configure c)
  | .setState v => .next { s with opState := v }
  | .trigger => if s.active then .next (s.raiseFault (.hostProtocol .trigger)) else s.dispatch .fg
  | .calibrate => .next { s with mcs := { s.mcs with zero := s.raw } }
  | .push b => .next (if s.hasRoom then s.pushByte b else s)
  | .recordEvent e => .next { s with lastEvent := some e }
  | .read => .next s
  | .clearStatus => .next { s with status := ⟨false, false⟩ }

/-- What READ lets the host observe: the fields R125 lists (44_host_interface R125), `status` as the word whose bits
60_exceptions R132 numbers. 70_reset_and_hazards R151 says in passing that software reads `active` "through `running`, the
timer and the stall, rule R125"; R125 and D30 list neither the timer nor the stall, and the model follows their list
(DESIGN CHOICE, log 19). -/
structure HostView where
  pos : PerAxis Coord
  running : Bool
  opState : OpState
  lastEvent : Option Event
  curStep : Step
  status : BitVec 2
  faults : List FaultRecord
  dirLine : PerAxis Bool
  stepLine : PerAxis Bool
  fifoLength : Nat
  deriving DecidableEq, Repr

/-- The answer of READ (44_host_interface R125). -/
def State.hostView (s : State) : HostView :=
  ⟨s.pos, s.running, s.opState, s.lastEvent, s.curStep, s.status.word, s.faults, s.dirLine, s.stepLine, s.fifo.length⟩

/-- ADC_SAMPLE: one channel (44_host_interface R127). -/
def State.adcSample (s : State) (ch : Channel) (v : Byte) : State :=
  match ch with
  | .x => { s with raw := ⟨v, s.raw.y⟩ }
  | .y => { s with raw := ⟨s.raw.x, v⟩ }

/-- A scheduled move; an agent with no enabled step lets its turn pass (00_scope R17; log 2). -/
def State.perform (s : State) : Move → Host.Outcome State Fault Refusal
  | .core => s.coreStep.getD (.next s)
  | .timer => .next (s.timerStep.getD s)
  | .host op => s.hostStep op
  | .adc ch v => .next (s.adcSample ch v)

/-- With nothing scheduled the block runs by itself: CORE if it can, else TIMER, else it waits (log 1). -/
def State.runAlone (s : State) : Host.Outcome State Fault Refusal :=
  s.coreStep.getD (.next (s.timerStep.getD s))

/-- The boot order: CONFIGURE, CALIBRATE, SET_STATE, TRIGGER (70_reset_and_hazards R147). -/
def bootMoves (c : ConfigureArgs) (mode : OpState) : List Move :=
  [.host (.configure c), .host .calibrate, .host (.setState mode), .host .trigger]

end Sys2Proof.Machine
end

