-- ==== Sys2Proof/Machine/Step.lean ====
section
/-! DEFINITION. One step of the machine: the next move of the schedule, or the block alone (00_scope R17, R18, 20_memory R51). -/

namespace Sys2Proof.Machine

/-- One atomic step of one agent. -/
def step (s : State) : Host.Outcome State Fault Refusal :=
  match s.env with
  | m :: rest => { s with env := rest }.perform m
  | [] => s.runAlone

/-- The state in which the next step fetches and runs the record whose bits are `w`: a dispatch in RUNNING_PROGRAM that
holds on the byte source, as a TRIGGER on an empty stream leaves it, with the three bytes arrived and CORE to move next
(43_pulse_sequencer R113; log 3). -/
def State.withFetchWord (s : State) (nbits w : Nat) : State :=
  { s with
    opState := .runningProgram
    running := true
    stall := some .fg
    fifo := tableBytes nbits w ++ s.fifo.drop 3
    env := .core :: s.env }

end Sys2Proof.Machine
end

