-- ==== Sys2Proof/Safety.lean ====
section
/-! DEFINITION. The terms claims are stated in: legal configurations, what a running, idle, quiescent or starved block is, runs
without a recorded condition, the real number a `Number` stands for, the invariant of the block, and the derived timing. -/

namespace Sys2Proof

/-- The real number a configuration gives. -/
noncomputable def ConfigReal.toReal : ConfigReal → ℝ
  | .rat a => a
  | .given i => Config.reals.val i

/-- The real number a stored number is. -/
noncomputable def Number.toReal (a : Number) : ℝ := a.expr.eval Config.reals.val a.rad

/-- `round` of 00_scope R13 over the reals: nearest, ties away from zero. -/
noncomputable def roundAway (v : ℝ) : ℤ := if 0 ≤ v then ⌊v + 1 / 2⌋ else -⌊-v + 1 / 2⌋

/-- The bits of a flag byte that no flag occupies are 0; under the default layout these are bits 7:6 (30_encoding R63). -/
def reservedClear (l : FlagLayout) (b2 : Byte) : Prop := ∀ p : Fin 8, p ∉ l.positions → b2.getLsbD p = false

namespace Machine

/-- A configuration is legal (00_scope R10). -/
def State.Legal (s : State) : Prop :=
  0 < s.params.clockFreq.toReal ∧ 0 < s.params.stepsPerMm.toReal ∧ 0 < s.mcs.minFeed.toReal ∧ 0 < s.mcs.maxFeed.toReal ∧
    0 ≤ s.mcs.deadzone.toReal ∧ 0 < s.tmr.cmpDir ∧ s.tmr.cmpDir < s.tmr.cmpStep ∧ s.tmr.cmpStep < s.cfg.idleReload ∧
    s.cfg.idleReload ≤ 65535

/-- The interpolator's arithmetic is the reference, exact real arithmetic (41_step_interpolator R73). -/
def State.Exact (s : State) : Prop := s.cfg.numerics = .exact

/-- STEPPING (42_dispatch_executor R95). -/
def State.Stepping (s : State) : Prop := s.running = true ∧ s.tmr.armed = true

/-- IDLE (42_dispatch_executor R95). -/
def State.Idle (s : State) : Prop := s.running = false

/-- QUIESCENT (70_reset_and_hazards R148). -/
def State.Quiescent (s : State) : Prop :=
  s.running = false ∧ s.tmr.armed = false ∧ s.latched = false ∧ s.stall = none

/-- STARVED (70_reset_and_hazards R148). -/
def State.Starved (s : State) : Prop := s.stall ≠ none ∧ s.fifo.length < 3

/-- No fault is recorded: the runs a claim may rest on (60_exceptions R133). -/
def State.FaultFree (s : State) : Prop := s.faults = []

/-- No fault and no status bit is recorded (41_step_interpolator R80, 43_pulse_sequencer R114). -/
def State.Clean (s : State) : Prop := s.faults = [] ∧ s.status = ⟨false, false⟩

/-- The reload a Step's period has (42_dispatch_executor R99, R101). -/
def State.periodOf (s : State) (st : Step) : Nat :=
  if st.duration = 0 then s.cfg.idleReload else (scale s.cfg.rangePolicy s.cfg.timerWidth st.duration st.activeAxes).value

/-- The invariant of the block: it holds after reset and every step keeps it. -/
structure State.Inv (s : State) : Prop where
  /-- `streamPos` is a multiple of 3 (10_state R36). -/
  framed : s.streamPos % 3 = 0
  /-- The byte source is within its capacity (44_host_interface R123). -/
  fits : ∀ c, s.cfg.fifoCap = some c → s.fifo.length ≤ c
  /-- The timer is armed exactly while a period has an event to issue (43_pulse_sequencer R107). -/
  armed_iff : s.tmr.armed = true ↔ s.tmr.phase ≠ .done
  /-- An armed timer is in one-shot mode (43_pulse_sequencer R107). -/
  onePulse : s.tmr.armed = true → s.tmr.onePulse = true
  /-- Before its direction event a period has latched nothing, and all lines are low (43_pulse_sequencer R115). -/
  dirPhase : s.tmr.phase = .dir → s.latched = false ∧ s.dirLine = .all false ∧ s.stepLine = .all false
  /-- Before its step event a period has latched no step or update event, and the step lines are low. -/
  stepPhase : s.tmr.phase = .step → s.tmr.stepPend = false ∧ s.tmr.updPend = false ∧ s.stepLine = .all false
  /-- Before its end a period has latched no update event. -/
  updPhase : s.tmr.phase = .upd → s.tmr.updPend = false
  /-- A compare latch belongs to a period in flight or to one whose end is still to be served (43_pulse_sequencer R116). -/
  latchOwned : s.latched = true → s.tmr.armed = true ∨ s.tmr.updPend = true
  /-- A held dispatch has the timer stopped, no latch, and `running` set (43_pulse_sequencer R113, 42_dispatch_executor R90). -/
  held : s.stall ≠ none → s.running = true ∧ s.tmr.armed = false ∧ s.latched = false
  /-- While a period is in flight or its end unserved, `running` tells a timed Step from an idle period
  (42_dispatch_executor R95, R101). -/
  runningCycle : s.tmr.armed = true ∨ s.tmr.updPend = true → (s.running = true ↔ s.curStep.duration ≠ 0)
  /-- `running` is set only while a period is in flight, its end is unserved, or a dispatch is held (10_state R30). -/
  runningOwned : s.running = true → s.tmr.armed = true ∨ s.tmr.updPend = true ∨ s.stall ≠ none
  /-- The reload of a period in flight is the one its Step gives (42_dispatch_executor R99, R101). -/
  reloadOf : s.tmr.armed = true → s.tmr.reload = s.periodOf s.curStep
  /-- A compare event inside its period fires (43_pulse_sequencer R114). -/
  dirFires : s.tmr.armed = true → s.tmr.cmpDir < s.tmr.reload → s.tmr.fireDir = true
  /-- A compare event inside its period fires (43_pulse_sequencer R114). -/
  stepFires : s.tmr.armed = true → s.tmr.cmpStep < s.tmr.reload → s.tmr.fireStep = true
  /-- A direction line is high only where the current Step's flag differs from the polarity (43_pulse_sequencer R109). -/
  dirLines : ∀ a, s.dirLine.get a = true → s.curStep.dir.get a ≠ s.cfg.dirPolarity.get a
  /-- A step line is high only where the current Step steps (43_pulse_sequencer R110). -/
  stepLines : ∀ a, s.stepLine.get a = true → s.curStep.step.get a = true
  /-- The faults are a set (10_state R34). -/
  faultSet : s.faults.Nodup
  /-- The reload of a timed Step's period fits the reload register (00_scope R9, 10_state R32, 42_dispatch_executor R99). -/
  reloadFits : s.tmr.armed = true → s.curStep.duration ≠ 0 → s.tmr.reload < 2 ^ s.cfg.timerWidth
  /-- Every Position component fits POS_WIDTH bits, two's complement (00_scope R9, 10_state R23). -/
  posFits : ∀ a, fitsSigned s.cfg.posWidth (s.pos.get a) = true
  /-- The interpolation counter fits COUNTER_WIDTH bits (00_scope R9, 10_state R29). -/
  counterFits : ∀ w, s.cfg.counterWidth = some w → s.mcs.n < 2 ^ w

/-! The real formulas of the Manual Interpolator, as the rules write them (41_step_interpolator R75 to R83). -/

/-- x after step 1 (41_step_interpolator R75). -/
noncomputable def State.refRawX (s : State) : ℝ := ((s.raw.x.toNat : ℝ) - s.mcs.zero.x.toNat) / 128

/-- y after step 1 (41_step_interpolator R75). -/
noncomputable def State.refRawY (s : State) : ℝ := ((s.raw.y.toNat : ℝ) - s.mcs.zero.y.toNat) / 128

/-- The clamped magnitude (41_step_interpolator R76). -/
noncomputable def State.refRawM (s : State) : ℝ := min √(s.refRawX ^ 2 + s.refRawY ^ 2) 1

/-- The deadzone's factor: 0 at magnitudes up to the radius (41_step_interpolator R77). -/
noncomputable def State.refFactor (s : State) : ℝ :=
  if s.refRawM ≤ s.mcs.deadzone.toReal then 0
  else max 0 ((s.refRawM - s.mcs.deadzone.toReal) / ((1 - s.mcs.deadzone.toReal) * s.refRawM))

/-- x after step 3 (41_step_interpolator R77). -/
noncomputable def State.refX (s : State) : ℝ := s.refFactor * s.refRawX

/-- y after step 3 (41_step_interpolator R77). -/
noncomputable def State.refY (s : State) : ℝ := s.refFactor * s.refRawY

/-- m after step 3 (41_step_interpolator R77). -/
noncomputable def State.refM (s : State) : ℝ := s.refFactor * s.refRawM

/-- The vector differs from the stored one (41_step_interpolator R78). -/
def State.RefChanged (s : State) : Prop := s.refX ≠ s.mcs.last.x.toReal ∨ s.refY ≠ s.mcs.last.y.toReal

/-- The counter after step 4 (41_step_interpolator R78). -/
noncomputable def State.refCount (s : State) : ℕ :=
  open Classical in if s.RefChanged then 0 else s.mcs.n

/-- The duration before it is made a 16-bit number (41_step_interpolator R79). -/
noncomputable def State.refQuotient (s : State) : ℝ :=
  s.params.clockFreq.toReal / ((s.mcs.minFeed.toReal + s.refM * (s.mcs.maxFeed.toReal - s.mcs.minFeed.toReal)) / 60) /
    s.params.stepsPerMm.toReal

/-- The slope (41_step_interpolator R82, R83). -/
noncomputable def State.refSlope (s : State) : ℝ :=
  if |s.refY| ≤ |s.refX| then |s.refY| / |s.refX| else |s.refX| / |s.refY|

/-- The minor axis' step flag of a Step the interpolator returns (41_step_interpolator R82). -/
noncomputable def State.refMinorFlag (s : State) (st : Step) : Bool :=
  open Classical in if |s.refY| ≤ |s.refX| then st.step.y else st.step.x

/-- The interpolation counter can hold the number (00_scope R9, COUNTER_WIDTH). -/
def State.Counts (s : State) (n : Nat) : Prop := ∀ w, s.cfg.counterWidth = some w → n < 2 ^ w

/-- The state after a number of calls of the interpolator, nothing else moving. -/
def State.manualRun (s : State) : Nat → State
  | 0 => s
  | k + 1 => (s.manualRun k).manualStep.2

/-- A trace entry that records the arming of a period (10_state R40). -/
def TraceEvent.isArmed : TraceEvent → Bool
  | .armed _ => true
  | .linesReset => false
  | .dirAsserted _ => false
  | .stepAsserted _ => false

/-! Derived timing, which no rule of the model depends on (70_reset_and_hazards R155, R156). -/

/-- The seconds a tick lasts (70_reset_and_hazards R156). -/
noncomputable def State.tickSeconds (s : State) : ℝ := 1 / s.params.clockFreq.toReal

/-- The ticks between the direction lines' and the step lines' rise (70_reset_and_hazards R156). -/
def State.dirSetupTicks (s : State) : Nat := s.tmr.cmpStep - s.tmr.cmpDir

/-- The ticks a step pulse lasts in a period that is not short, the handler's latency aside (70_reset_and_hazards R156). -/
def State.pulseTicks (s : State) : Nat := s.tmr.reload - s.tmr.cmpStep

end Machine
end Sys2Proof
end

