-- ==== Sys2Proof/Certificates/Slice0/Obligations.lean ====
section
/-! DEFINITION. The statements about the block, each from the numbered rules of spec/ its docstring names. -/

open Sys2Proof Sys2Proof.Machine

/-! ## Step records -/

/-- R70: the encoder's bytes under the default layout; decoding an encoded Step gives it back under every layout that gives
each flag a bit of its own; encoding a decoded record gives its bytes back where the reserved bits are 0; and the same round
trip for records as instructions. -/
def Obligations.RecordRoundTrip : Prop :=
  (∀ s : Step, encodeStep .default s =
    [s.duration.extractLsb' 0 8, s.duration.extractLsb' 8 8,
      (0b00#2 ++ BitVec.ofBool s.step.z ++ BitVec.ofBool s.dir.z ++ BitVec.ofBool s.step.y ++ BitVec.ofBool s.dir.y ++
        BitVec.ofBool s.step.x ++ BitVec.ofBool s.dir.x : BitVec 8)]) ∧
  (∀ (l : FlagLayout) (s : Step) (rest : List Byte), l.wf = true →
    decode l (encodeStep l s ++ rest) = .ok (s.toInstr, rest) ∧ s.toInstr.toStep = s) ∧
  (∀ (l : FlagLayout) (b0 b1 b2 : Byte), l.wf = true → reservedClear l b2 →
    encodeStep l (decodeStep l b0 b1 b2) = [b0, b1, b2]) ∧
  (∀ (l : FlagLayout) (i : Instr) (rest : List Byte), l.wf = true → i.wf = true →
    decode l (encode l i ++ rest) = .ok (i, rest))

/-- R64, R65: any three bytes decode to a well-formed record and the bytes after them are left, whatever the layout. -/
def Obligations.EveryRecordDecodes : Prop :=
  ∀ (l : FlagLayout) (b0 b1 b2 : Byte) (rest : List Byte),
    ∃ i : Instr, decode l (b0 :: b1 :: b2 :: rest) = .ok (i, rest) ∧ i.wf = true ∧ i.toStep = decodeStep l b0 b1 b2

/-- R58, R60: the fields of the record word: its three bytes, the duration in bits 15:0, and under the default layout the six
flags in bits 16 to 21. -/
def Obligations.RecordWordFields : Prop :=
  ∀ b0 b1 b2 : Byte,
    recordWord b0 b1 b2 % 2 ^ 8 = b0.toNat ∧ recordWord b0 b1 b2 / 2 ^ 8 % 2 ^ 8 = b1.toNat ∧
    recordWord b0 b1 b2 / 2 ^ 16 = b2.toNat ∧
    (∀ l, (decodeStep l b0 b1 b2).duration.toNat = recordWord b0 b1 b2 % 2 ^ 16) ∧
    (decodeStep .default b0 b1 b2).dir =
      ⟨(recordWord b0 b1 b2).testBit 16, (recordWord b0 b1 b2).testBit 18, (recordWord b0 b1 b2).testBit 20⟩ ∧
    (decodeStep .default b0 b1 b2).step =
      ⟨(recordWord b0 b1 b2).testBit 17, (recordWord b0 b1 b2).testBit 19, (recordWord b0 b1 b2).testBit 21⟩

/-- R62: the duration alone says whether a record is STOP or STEP. -/
def Obligations.DurationSelectsTheForm : Prop :=
  ∀ (l : FlagLayout) (b0 b1 b2 : Byte),
    (recordWord b0 b1 b2 % 2 ^ 16 = 0 →
      decodeRecord l b0 b1 b2 = .stop (recordDir l b2) (recordStep l b2)) ∧
    (recordWord b0 b1 b2 % 2 ^ 16 ≠ 0 →
      decodeRecord l b0 b1 b2 = .step (recordDuration b0 b1) (recordDir l b2) (recordStep l b2))

/-- R63: the reserved bits are ignored by the decoder and written 0 by the encoder, the round trip holds for every Step and for
every record whose reserved bits are 0, and a record with a reserved bit set does not survive it. -/
def Obligations.ReservedBitsIgnored : Prop :=
  (∀ b0 b1 b2 b2' : Byte, b2.extractLsb' 0 6 = b2'.extractLsb' 0 6 →
    decodeStep .default b0 b1 b2 = decodeStep .default b0 b1 b2') ∧
  (∀ s : Step, ∃ b0 b1 b2 : Byte, encodeStep .default s = [b0, b1, b2] ∧ b2.extractLsb' 6 2 = 0 ∧
    decodeStep .default b0 b1 b2 = s) ∧
  (∀ b0 b1 b2 : Byte,
    encodeStep .default (decodeStep .default b0 b1 b2) = [b0, b1, b2] ↔ b2.extractLsb' 6 2 = 0)

/-- Words the spec writes out (30_encoding R68, 95_test_vectors 2.1) decode to what it says they stand for. -/
def Obligations.SpecWordsDecode : Prop :=
  decodeTableWord 24 0x0B03E8 = some (.step 1000 ⟨true, false, false⟩ ⟨true, true, false⟩) ∧
  decodeTableWord 24 0x3FFFFF = some (.step 65535 ⟨true, true, true⟩ ⟨true, true, true⟩) ∧
  decodeTableWord 24 0x151234 = some (.step 4660 ⟨true, true, true⟩ ⟨false, false, false⟩) ∧
  decodeTableWord 24 0x000000 = some (.stop ⟨false, false, false⟩ ⟨false, false, false⟩) ∧
  decodeTableWord 24 0x020000 = some (.stop ⟨false, false, false⟩ ⟨true, false, false⟩)

/-- R67, R68: STOP is STEP 0 with no axis, NOP d is STEP d with no axis, and the worked encoding. -/
def Obligations.RecordNotation : Prop :=
  RecordLine.assemble .default .stop = [0x00, 0x00, 0x00] ∧
  (∀ l, RecordLine.assemble l .stop = RecordLine.assemble l (.step 0 ⟨.absent, .absent, .absent⟩)) ∧
  (∀ l d, RecordLine.assemble l (.nop d) = RecordLine.assemble l (.step d ⟨.absent, .absent, .absent⟩)) ∧
  RecordLine.assemble .default (.step 1000 ⟨.plus, .minus, .absent⟩) = [0xE8, 0x03, 0x0B]

/-- R69: the decoder removes three bytes and advances `streamPos` by 3, or holds where fewer are present; it writes nothing
else. -/
def Obligations.FetchRemovesOneRecord : Prop :=
  (∀ (s : State) (b0 b1 b2 : Byte) (rest : List Byte), s.fifo = b0 :: b1 :: b2 :: rest →
    ∃ i : Instr, s.popRecord = some (i, { s with fifo := rest, streamPos := s.streamPos + 3 }) ∧
      i.toStep = ⟨(b1 ++ b0).setWidth 16,
        ⟨b2.getLsbD s.cfg.flagLayout.xDir, b2.getLsbD s.cfg.flagLayout.yDir, b2.getLsbD s.cfg.flagLayout.zDir⟩,
        ⟨b2.getLsbD s.cfg.flagLayout.xStep, b2.getLsbD s.cfg.flagLayout.yStep, b2.getLsbD s.cfg.flagLayout.zStep⟩⟩) ∧
  (∀ s : State, s.fifo.length < 3 → s.popRecord = none)

/-! ## What a record does -/

/-- STOP at its dispatch (40_step_record R71, 42_dispatch_executor R97, R98, R100, R101, R102): the next state in full, for every
state and every flags; whether a compare event not inside the idle period fires is open (`fd`, `fs`), and so is the model's own
index of free values (`n`, log 5). -/
def Obligations.StopRecordEffect : Prop :=
  ∀ (dirs steps : PerAxis Bool) (s : State), ∃ (fd fs : Bool) (n : Nat),
    (s.tmr.cmpDir < s.cfg.idleReload → fd = true) ∧ (s.tmr.cmpStep < s.cfg.idleReload → fs = true) ∧
    exec (.stop dirs steps) s = .next { s with
      running := false
      dirLine := ⟨false, false, false⟩
      stepLine := ⟨false, false, false⟩
      curStep := ⟨0, dirs, steps⟩
      faults :=
        if (steps.x || steps.y || steps.z) = true ∧ FaultRecord.stopStep ⟨0, dirs, steps⟩ ∉ s.faults
        then s.faults ++ [.stopStep ⟨0, dirs, steps⟩] else s.faults
      tmr := { s.tmr with
        reload := s.cfg.idleReload, onePulse := true, armed := true, phase := .dir
        dirPend := false, stepPend := false, updPend := false, fireDir := fd, fireStep := fs }
      status := { s.status with sShort := s.status.sShort || decide (s.cfg.idleReload ≤ s.tmr.cmpStep) }
      trace := s.trace ++ [.linesReset, .armed s.cfg.idleReload]
      draws := n }

/-- STEP at its dispatch (40_step_record R72, 42_dispatch_executor R97 to R100): the next state in full, for every state, every
duration but 0 and every flags; whether a compare event not inside the period fires is open (`fd`, `fs`), and so is the model's
own index of free values (`n`, log 5). A TIMER_WIDTH other than 16 is the model's choice (log 22). -/
def Obligations.StepRecordEffect : Prop :=
  ∀ (d : Ticks) (dirs steps : PerAxis Bool) (s : State), d ≠ 0 → ∃ (fd fs : Bool) (n : Nat),
    let v := scale s.cfg.rangePolicy s.cfg.timerWidth d (steps.x.toNat + steps.y.toNat + steps.z.toNat)
    (s.tmr.cmpDir < v.value → fd = true) ∧ (s.tmr.cmpStep < v.value → fs = true) ∧
    exec (.step d dirs steps) s = .next { s with
      running := true
      dirLine := ⟨false, false, false⟩
      stepLine := ⟨false, false, false⟩
      curStep := ⟨d, dirs, steps⟩
      tmr := { s.tmr with
        reload := v.value, onePulse := true, armed := true, phase := .dir
        dirPend := false, stepPend := false, updPend := false, fireDir := fd, fireStep := fs }
      status := ⟨s.status.sRange || v.outOfRange, s.status.sShort || decide (v.value ≤ s.tmr.cmpStep)⟩
      trace := s.trace ++ [.linesReset, .armed v.value]
      draws := n }

/-- `scale` (42_dispatch_executor section 2): the scaled duration is the product with 1, sqrt 2 or sqrt 3 rounded to nearest;
its value and S_RANGE for a timer of any width; and, for the 16-bit timer, the durations at which it first overflows. That the
isqrt form is this rounding and where the overflow begins are marked in 42_dispatch_executor R99 as derived, inferences the spec
marks as its own. A width other than 16 is the model's choice (log 22). -/
def Obligations.ScaleRoundsTheProduct : Prop :=
  ∀ (p : RangePolicy) (w : Nat) (d : Ticks), d ≠ 0 →
    (∀ k ≤ 1, scaledDuration d k = d.toNat ∧ scale p 16 d k = ⟨d.toNat, false⟩) ∧
    (scaledDuration d 2 : ℤ) = roundAway (d.toNat * √2) ∧
    (scaledDuration d 3 : ℤ) = roundAway (d.toNat * √3) ∧
    (∀ k ≤ 3, scaledDuration d k ≤ 2 ^ w - 1 → scale p w d k = ⟨scaledDuration d k, false⟩) ∧
    (∀ k ≤ 3, 2 ^ w - 1 < scaledDuration d k →
      scale p w d k = ⟨if p = .wrap then scaledDuration d k % 2 ^ w else 2 ^ w - 1, true⟩) ∧
    ((scale p 16 d 2).outOfRange = true ↔ 46341 ≤ d.toNat) ∧
    ((scale p 16 d 3).outOfRange = true ↔ 37837 ≤ d.toNat)

/-- A dispatch that is resumed, triggered, or entered from the update event runs the record at the head of the stream: the
step is the record's meaning, with the three bytes removed, `streamPos` advanced, and the agent's turn taken (40_step_record R69,
42_dispatch_executor R91, 43_pulse_sequencer R112, R113, 44_host_interface R121). -/
def Obligations.StepRunsTheDecodedRecord : Prop :=
  ∀ (s : State) (b0 b1 b2 : Byte) (rest : List Byte) (moves : List Move), s.fifo = b0 :: b1 :: b2 :: rest →
    (∀ ctx, s.stall = some ctx → s.env = .core :: moves →
      step s = exec (decodeRecord s.cfg.flagLayout b0 b1 b2)
        { s with env := moves, stall := none, fifo := rest, streamPos := s.streamPos + 3 }) ∧
    (s.active = false → s.opState = .runningProgram → s.env = .host .trigger :: moves →
      step s = exec (decodeRecord s.cfg.flagLayout b0 b1 b2)
        { s with env := moves, running := true, fifo := rest, streamPos := s.streamPos + 3 }) ∧
    (s.stall = none → s.tmr.dirPend = false → s.tmr.stepPend = false → s.tmr.updPend = true →
      s.opState = .runningProgram → s.env = .core :: moves →
      step s = exec (decodeRecord s.cfg.flagLayout b0 b1 b2)
        { s with env := moves, tmr := { s.tmr with updPend := false }, running := true, fifo := rest,
                 streamPos := s.streamPos + 3 })

/-- The record placed by `withFetchWord` is the one the next step runs (the model's own interface, log 3). -/
def Obligations.FetchedWordRuns : Prop :=
  ∀ (s : State) (nbits w : Nat) (i : Instr), s.cfg.flagLayout = .default → decodeTableWord nbits w = some i →
    step (s.withFetchWord nbits w) = exec i { s with
      opState := .runningProgram, running := true, stall := none, fifo := s.fifo.drop 3, streamPos := s.streamPos + 3 }

/-- `arm` (42_dispatch_executor R100, 43_pulse_sequencer R114): the period's reload, one-shot mode, the latches cleared, the compare
events inside the period firing, S_SHORT for a short period; nothing but the timer, S_SHORT, the trace and the model's draws is
written (`n` is the model's own index of free values, log 5). -/
def Obligations.ArmProgramsOneShotPeriod : Prop :=
  ∀ (s : State) (v : Nat), ∃ (fd fs : Bool) (n : Nat),
    (s.tmr.cmpDir < v → fd = true) ∧ (s.tmr.cmpStep < v → fs = true) ∧
    s.arm v = { s with
      tmr := { s.tmr with
        reload := v, onePulse := true, armed := true, phase := .dir
        dirPend := false, stepPend := false, updPend := false, fireDir := fd, fireStep := fs }
      status := { s.status with sShort := s.status.sShort || decide (v ≤ s.tmr.cmpStep) }
      trace := s.trace ++ [.armed v]
      draws := n }

/-- EXECUTE (42_dispatch_executor R96 to R102): the next state in full, for every Step and every state. The six lines are reset
and `curStep` stored on both branches; a Step with a duration arms its scaled duration, `running` as it was; a zero-duration
Step records F_STOP_STEP if a step flag is set, clears `running` and arms IDLE_RELOAD. Whether a compare event not inside the
period fires is open (`fd`, `fs`), and so is the model's own index of free values (`n`, log 5). A TIMER_WIDTH other than 16 is
the model's choice (log 22). -/
def Obligations.ExecuteCommitsTheStep : Prop :=
  ∀ (s : State) (st : Step), ∃ (fd fs : Bool) (n : Nat),
    let v : Narrowed := if st.duration = 0 then ⟨s.cfg.idleReload, false⟩
      else scale s.cfg.rangePolicy s.cfg.timerWidth st.duration (st.step.x.toNat + st.step.y.toNat + st.step.z.toNat)
    (s.tmr.cmpDir < v.value → fd = true) ∧ (s.tmr.cmpStep < v.value → fs = true) ∧
    s.execute st = { s with
      running := s.running && st.duration != 0
      dirLine := ⟨false, false, false⟩
      stepLine := ⟨false, false, false⟩
      curStep := st
      faults :=
        if st.duration = 0 ∧ (st.step.x || st.step.y || st.step.z) = true ∧ FaultRecord.stopStep st ∉ s.faults
        then s.faults ++ [.stopStep st] else s.faults
      tmr := { s.tmr with
        reload := v.value, onePulse := true, armed := true, phase := .dir
        dirPend := false, stepPend := false, updPend := false, fireDir := fd, fireStep := fs }
      status := ⟨s.status.sRange || v.outOfRange, s.status.sShort || decide (v.value ≤ s.tmr.cmpStep)⟩
      trace := s.trace ++ [.linesReset, .armed v.value]
      draws := n }

/-! ## The Manual Interpolator

The statements that compare a call with the real formulas are about the reference value of NUMERICS, exact real arithmetic
(`State.Exact`, 41_step_interpolator R73), over every configuration of reals. -/

/-- R75 to R78, R83, R84: the stored vector is the real vector after the deadzone, the counter restarts exactly when the real
vector changed, and a zero vector gives the zero Step and writes neither the counter's increment nor the coordinates. -/
def Obligations.ManualVectorIsTheRealOne : Prop :=
  ∀ s : State, s.Legal → s.Exact →
    s.manualStep.2.mcs.last.x.toReal = s.refX ∧ s.manualStep.2.mcs.last.y.toReal = s.refY ∧
    (s.refM = 0 → s.manualStep.1 = .zero ∧ s.manualStep.2.mcs.n = s.refCount ∧
      s.manualStep.2.mcs.previousCoord = s.mcs.previousCoord ∧ s.manualStep.2.mcs.newCoord = s.mcs.newCoord ∧
      s.manualStep.2.status = s.status) ∧
    (s.refM ≠ 0 → s.Counts (s.refCount + 1) → s.manualStep.2.mcs.n = s.refCount + 1)

/-- R79, with the value `to_u16` gives for a legal configuration (41_step_interpolator R80): the duration is 0 for magnitude 0, and
else the real quotient truncated, with S_RANGE set exactly where the quotient does not lie in [1, 65536). -/
def Obligations.ManualDurationIsTheRealQuotient : Prop :=
  ∀ s : State, s.Legal → s.Exact → (s.refM = 0 → s.manualStep.1.duration = 0) ∧ (s.refM ≠ 0 →
    0 < s.refQuotient ∧
    (1 ≤ s.refQuotient → s.refQuotient < 65536 →
      (s.manualStep.1.duration.toNat : ℤ) = ⌊s.refQuotient⌋ ∧ s.manualStep.2.status = s.status) ∧
    (s.refQuotient < 1 →
      s.manualStep.1.duration = 0 ∧ s.manualStep.2.status = { s.status with sRange := true }) ∧
    (65536 ≤ s.refQuotient →
      (s.manualStep.1.duration.toNat : ℤ) =
        (if s.cfg.rangePolicy = .wrap then ⌊s.refQuotient⌋ % 65536 else 65535) ∧
      s.manualStep.2.status = { s.status with sRange := true }))

/-- Derived from 41_step_interpolator R81, R82, R83: the flags of a call with a magnitude: directions from the signs, the major
axis always steps, the minor axis where the rounded real coordinate changes, z never; the counter one higher than after step 4,
where COUNTER_WIDTH can hold that; and the two coordinates kept. On the call at which a counter of finite width wraps, the
coordinates and the minor flag computed from its new value are the model's choice (log 21). -/
def Obligations.ManualFlagsFollowTheRealLine : Prop :=
  ∀ s : State, s.Legal → s.Exact → s.refM ≠ 0 →
    (s.manualStep.1.dir.x = true ↔ 0 ≤ s.refX) ∧ (s.manualStep.1.dir.y = true ↔ 0 ≤ s.refY) ∧
    s.manualStep.1.dir.z = false ∧ s.manualStep.1.step.z = false ∧
    (|s.refY| ≤ |s.refX| → s.manualStep.1.step.x = true) ∧ (|s.refX| < |s.refY| → s.manualStep.1.step.y = true) ∧
    (s.Counts (s.refCount + 1) → s.manualStep.2.mcs.n = s.refCount + 1) ∧
    s.manualStep.2.mcs.previousCoord.toReal = ((s.manualStep.2.mcs.n : ℝ) - 1) * s.refSlope ∧
    s.manualStep.2.mcs.newCoord.toReal = s.manualStep.2.mcs.n * s.refSlope ∧
    (s.refMinorFlag s.manualStep.1 = true ↔
      roundAway (s.manualStep.2.mcs.n * s.refSlope) ≠ roundAway (((s.manualStep.2.mcs.n : ℝ) - 1) * s.refSlope))

/-- R86: on a vector held from a call that restarts the counter, the minor axis' flag of a call is the change of the rounded
coordinate, the number of minor steps in the first N calls is `round (N * slope)`, slope 1 steps on every call and slope 0 on
none. Where COUNTER_WIDTH is finite, the flag and the sum are said of the calls the counter can count; the clauses on slope 1
and slope 0 and the last clause also of later calls, and that the counter then wraps is the model's choice (log 21). -/
def Obligations.MinorStepsAddUpToTheLine : Prop :=
  ∀ s : State, s.Legal → s.Exact → s.refM ≠ 0 → s.refCount = 0 →
    0 ≤ s.refSlope ∧ s.refSlope ≤ 1 ∧
    (∀ N : ℕ, s.Counts (N + 1) → ((s.refMinorFlag (s.manualRun N).manualStep.1).toNat : ℤ) =
      roundAway ((N + 1 : ℕ) * s.refSlope) - roundAway ((N : ℕ) * s.refSlope)) ∧
    (∀ N : ℕ, s.Counts N →
      ((∑ k ∈ Finset.range N, (s.refMinorFlag (s.manualRun k).manualStep.1).toNat : ℕ) : ℤ) =
        roundAway (N * s.refSlope)) ∧
    (s.refSlope = 1 → ∀ N, s.refMinorFlag (s.manualRun N).manualStep.1 = true) ∧
    (s.refSlope = 0 → ∀ N, s.refMinorFlag (s.manualRun N).manualStep.1 = false) ∧
    (∀ N : ℕ, (s.manualRun (N + 1)).mcs.n =
      match s.cfg.counterWidth with
      | none => N + 1
      | some w => (N + 1) % 2 ^ w)

/-- R87: the normalised magnitude lies in [0, 1], and is 0 exactly when the clamped magnitude was at most the radius. -/
def Obligations.MagnitudeStaysInTheUnitInterval : Prop :=
  ∀ s : State, s.Legal → s.Exact →
    let m : ℝ := (⟨s.rootRad, s.deflection.m⟩ : Number).toReal
    0 ≤ m ∧ m ≤ 1 ∧ (m = 0 ↔ min √(s.refRawX ^ 2 + s.refRawY ^ 2) 1 ≤ s.mcs.deadzone.toReal)

/-- R88: full deflection along +x, where the radius leaves any deflection outside the deadzone and the quotient is in range. -/
def Obligations.FullDeflectionAlongX : Prop :=
  ∀ s : State, s.Legal → s.Exact → s.mcs.deadzone.toReal < 1 → s.raw.x.toNat = s.mcs.zero.x.toNat + 128 →
    s.raw.y = s.mcs.zero.y →
    1 ≤ s.params.clockFreq.toReal / (s.mcs.maxFeed.toReal / 60) / s.params.stepsPerMm.toReal →
    s.params.clockFreq.toReal / (s.mcs.maxFeed.toReal / 60) / s.params.stepsPerMm.toReal < 65536 →
    (s.manualStep.1.duration.toNat : ℤ) =
      ⌊s.params.clockFreq.toReal / (s.mcs.maxFeed.toReal / 60) / s.params.stepsPerMm.toReal⌋ ∧
    s.manualStep.1.step = ⟨true, false, false⟩ ∧ s.manualStep.1.dir.x = true

/-- R80: `to_u16` of a finite real, given by its floor, and of a quotient that is not finite; the draw is whatever value is given
for it. -/
def Obligations.ToTicksTruncatesAndFlags : Prop :=
  ∀ (p : RangePolicy) (free : Ticks),
    toTicks p free none = ⟨free.toNat, true⟩ ∧
    ∀ q : ℝ,
      (1 ≤ q → q < 65536 → ((toTicks p free (some ⌊q⌋)).value : ℤ) = ⌊q⌋ ∧
        (toTicks p free (some ⌊q⌋)).outOfRange = false) ∧
      (65536 ≤ q → ((toTicks p free (some ⌊q⌋)).value : ℤ) = (if p = .wrap then ⌊q⌋ % 65536 else 65535) ∧
        (toTicks p free (some ⌊q⌋)).outOfRange = true) ∧
      (0 ≤ q → q < 1 → toTicks p free (some ⌊q⌋) = ⟨0, true⟩) ∧
      (q < 0 → toTicks p free (some ⌊q⌋) = ⟨free.toNat, true⟩)

/-- What MANUAL_STEP writes (41_step_interpolator R85): the interpolator's `last`, counter and coordinates, S_RANGE, and the
model's draws; nothing else, whatever the arithmetic. -/
def Obligations.ManualStepFrame : Prop :=
  ∀ s : State, ∃ (last : PerChannel Number) (n : Nat) (pc nc : Number) (r : Bool) (d : Nat),
    s.manualStep.2 = { s with
      mcs := { s.mcs with last := last, n := n, previousCoord := pc, newCoord := nc }
      status := { s.status with sRange := s.status.sRange || r }
      draws := d }

/-- CALIBRATE, then the interpolator with the joystick untouched: the zero Step (44_host_interface R122, 41_step_interpolator R77,
R84). -/
def Obligations.CalibratedRestGivesTheZeroStep : Prop :=
  ∀ (s : State) (moves : List Move), s.Exact → s.env = .host .calibrate :: moves →
    0 ≤ s.mcs.deadzone.toReal →
    step s = .next { s with env := moves, mcs := { s.mcs with zero := s.raw } } ∧
    (State.manualStep { s with env := moves, mcs := { s.mcs with zero := s.raw } }).1 = .zero

/-! ## Dispatch and the handler -/

/-- R92: a READY dispatch writes `running ← 0` and nothing else. -/
def Obligations.ReadyDispatchStopsStepping : Prop :=
  ∀ (s : State) (ctx : Context), s.opState = .ready → s.dispatch ctx = .next { s with running := false }

/-- R91: in MANUAL_CONTROL the dispatch executes the interpolator's Step, in RUNNING_PROGRAM the decoder's. -/
def Obligations.DispatchSelectsTheProducer : Prop :=
  (∀ (s : State) (ctx : Context), s.opState = .manualControl →
    s.dispatch ctx = .next (({ s with running := true }.manualStep.2).execute { s with running := true }.manualStep.1)) ∧
  (∀ (s : State) (ctx : Context) (b0 b1 b2 : Byte) (rest : List Byte), s.opState = .runningProgram →
    s.fifo = b0 :: b1 :: b2 :: rest → s.dispatch ctx =
      .next ({ s with running := true, fifo := rest, streamPos := s.streamPos + 3 }.execute
        (decodeStep s.cfg.flagLayout b0 b1 b2)))

/-- A dispatch on a short stream holds: it removes nothing, executes nothing and records the context it was entered from
(20_memory R48, 10_state R39). -/
def Obligations.ShortStreamHolds : Prop :=
  ∀ (s : State) (ctx : Context), s.opState = .runningProgram → s.fifo.length < 3 →
    s.dispatch ctx = .next { s with running := true, stall := some ctx }

/-- A held dispatch does not read `opState` again: its resume is the same whatever `opState` is (20_memory R53,
70_reset_and_hazards R152). -/
def Obligations.HeldDispatchIgnoresOpState : Prop :=
  ∀ (s t : State) (v : OpState) (moves : List Move), s.stall ≠ none → s.env = .core :: moves → step s = .next t →
    step { s with opState := v } = .next { t with opState := v }

/-- DIR_EVENT, served alone (43_pulse_sequencer R108, R109): the next state in full. -/
def Obligations.DirEventRaisesTheLines : Prop :=
  ∀ (s : State) (moves : List Move), s.stall = none → s.tmr.dirPend = true → s.tmr.stepPend = false →
    s.tmr.updPend = false → s.env = .core :: moves →
    step s = .next { s with
      env := moves
      tmr := { s.tmr with dirPend := false }
      dirLine := ⟨s.dirLine.x || (s.curStep.dir.x != s.cfg.dirPolarity.x),
        s.dirLine.y || (s.curStep.dir.y != s.cfg.dirPolarity.y), s.dirLine.z || (s.curStep.dir.z != s.cfg.dirPolarity.z)⟩
      trace := s.trace ++ ([Axis.x, .y, .z].filter fun a => s.curStep.dir.get a != s.cfg.dirPolarity.get a).map
        .dirAsserted }

/-- STEP_EVENT, served alone (43_pulse_sequencer R108, R110): the next state in full, the position and its faults being what the
Position Tracker makes them. -/
def Obligations.StepEventPulsesAndTracks : Prop :=
  ∀ (s : State) (moves : List Move), s.stall = none → s.tmr.dirPend = false → s.tmr.stepPend = true →
    s.tmr.updPend = false → s.env = .core :: moves →
    step s = .next { s with
      env := moves
      tmr := { s.tmr with stepPend := false }
      stepLine := ⟨s.stepLine.x || s.curStep.step.x, s.stepLine.y || s.curStep.step.y, s.stepLine.z || s.curStep.step.z⟩
      trace := s.trace ++ ([Axis.x, .y, .z].filter fun a => s.curStep.step.get a).map .stepAsserted
      pos := (s.track s.curStep).pos
      faults := (s.track s.curStep).faults }

/-- Derived from 43_pulse_sequencer R111, which fixes the range of 32 bits: each stepping axis moves by one in its direction,
wrapping as two's complement of POS_WIDTH bits with F_POS_OVERFLOW recorded; other axes, and every field but the position and
the faults, are unchanged. The wrap and the fault's bounds at a POS_WIDTH other than 32 are the model's choice (log 22). -/
def Obligations.TrackMovesEachSteppingAxisByOne : Prop :=
  ∀ (s : State) (st : Step),
    s.track st = { s with pos := (s.track st).pos, faults := (s.track st).faults } ∧
    (∀ a, st.step.get a = false → (s.track st).pos.get a = s.pos.get a) ∧
    (∀ a, st.step.get a = true →
      (s.track st).pos.get a = (s.pos.get a + if st.dir.get a then 1 else -1).bmod (2 ^ s.cfg.posWidth)) ∧
    (∀ f, f ∈ (s.track st).faults ↔ f ∈ s.faults ∨ ∃ a, f = .posOverflow a ∧ st.step.get a = true ∧
      (s.pos.get a + (if st.dir.get a then 1 else -1) < -2 ^ (s.cfg.posWidth - 1) ∨
        2 ^ (s.cfg.posWidth - 1) - 1 < s.pos.get a + (if st.dir.get a then 1 else -1)))

/-- R112: the update event clears `running` and dispatches. -/
def Obligations.UpdateEventDispatches : Prop :=
  ∀ (s : State) (moves : List Move), s.stall = none → s.tmr.dirPend = false → s.tmr.stepPend = false →
    s.tmr.updPend = true → s.env = .core :: moves →
    step s = { s with env := moves, tmr := { s.tmr with updPend := false }, running := false }.dispatch .isr

/-- R105, R106, R107: the timer's three events, one a step, and no step of it enabled where no period is armed. -/
def Obligations.TimerIssuesItsEventsInOrder : Prop :=
  ∀ (s : State) (moves : List Move), s.env = .timer :: moves →
    (s.tmr.armed = true → s.tmr.phase = .dir → step s = .next { s with
      env := moves, tmr := { s.tmr with dirPend := s.tmr.dirPend || s.tmr.fireDir, phase := .step } }) ∧
    (s.tmr.armed = true → s.tmr.phase = .step → step s = .next { s with
      env := moves, tmr := { s.tmr with stepPend := s.tmr.stepPend || s.tmr.fireStep, phase := .upd } }) ∧
    (s.tmr.armed = true → s.tmr.phase = .upd → step s = .next { s with
      env := moves, tmr := { s.tmr with updPend := true, armed := false, phase := .done } }) ∧
    (s.tmr.armed = false → s.timerStep = none)

/-- R108, R135: wherever CORE's turns fall among the timer's three steps of a period, one invocation that finds all the latches of
the period set, two of them, or one each time serves them to the same end: the events are served in the order direction, step,
update. -/
def Obligations.OneInvocationServesAsThree : Prop :=
  ∀ (s : State) (moves : List Move) (k l : Nat), s.tmr.armed = true → s.tmr.phase = .dir → s.latched = false →
    s.stall = none →
    core.run (k + l + 4) { s with
      env := .timer :: (List.replicate k .core ++ .timer :: (List.replicate l .core ++ .timer :: .core :: moves)) } =
      core.run 4 { s with env := .timer :: .timer :: .timer :: .core :: moves }

/-- R115: in a period that is not short, run by the block alone (its order is the model's choice, log 1), the direction lines
rise first, then the step lines rise and the position moves, then `running` is cleared and the next dispatch made; each happens
after the one before it, and the lines were low and the trace without these events at the start. A POS_WIDTH other than 32 is
the model's choice (log 22). -/
def Obligations.PeriodEffectsComeInOrder : Prop :=
  ∀ s : State, s.Inv → s.env = [] → s.tmr.phase = .dir → s.tmr.cmpDir < s.tmr.cmpStep →
    s.tmr.cmpStep < s.tmr.reload → ∃ t1 t2 : State,
      core.run 2 s = .next t1 ∧ core.run 4 s = .next t2 ∧
      s.dirLine = .all false ∧ s.stepLine = .all false ∧
      (∀ a, t1.dirLine.get a = (s.curStep.dir.get a != s.cfg.dirPolarity.get a)) ∧
      t1.stepLine = .all false ∧ t1.pos = s.pos ∧ t1.curStep = s.curStep ∧
      t1.trace = s.trace ++ ([Axis.x, .y, .z].filter fun a => s.curStep.dir.get a != s.cfg.dirPolarity.get a).map
        .dirAsserted ∧
      t2.dirLine = t1.dirLine ∧ t2.stepLine = s.curStep.step ∧ t2.curStep = s.curStep ∧
      (∀ a, t2.pos.get a = if s.curStep.step.get a
        then (s.pos.get a + if s.curStep.dir.get a then 1 else -1).bmod (2 ^ s.cfg.posWidth) else s.pos.get a) ∧
      t2.trace = t1.trace ++ ([Axis.x, .y, .z].filter fun a => s.curStep.step.get a).map .stepAsserted ∧
      core.run 6 s = { t2 with tmr := { t2.tmr with updPend := false, armed := false, phase := .done }
                               running := false }.dispatch .isr

/-! ## The host and the environment -/

/-- R118: CONFIGURE and TRIGGER while stepping is active record F_HOST_PROTOCOL and do nothing else. -/
def Obligations.GuardedOperationsFaultWhileActive : Prop :=
  ∀ (s : State) (moves : List Move) (op : HostOp) (g : GuardedOp),
    (s.running = true ∨ s.tmr.armed = true ∨ s.tmr.dirPend = true ∨ s.tmr.stepPend = true ∨ s.tmr.updPend = true ∨
      s.stall ≠ none) →
    s.env = .host op :: moves → ((∃ c, op = .configure c) ∧ g = .configure ∨ op = .trigger ∧ g = .trigger) →
    step s = .next { s with
      env := moves
      faults := if FaultRecord.hostProtocol g ∈ s.faults then s.faults else s.faults ++ [.hostProtocol g] }

/-- R119: CONFIGURE while stepping is not active writes `params` and the configuration fields of `mcs`, and nothing else. -/
def Obligations.ConfigureWritesTheConfiguration : Prop :=
  ∀ (s : State) (moves : List Move) (c : ConfigureArgs), s.active = false → s.env = .host (.configure c) :: moves →
    step s = .next { s with
      env := moves
      params := ⟨c.clockFreq, c.stepsPerMm, c.maxSpeed, c.maxAccel⟩
      mcs := { s.mcs with
        deadzone := c.deadzone, minFeed := c.minFeed, maxFeed := c.maxFeed, zero := ⟨c.zeroX, c.zeroY⟩ } }

/-- TRIGGER while stepping is not active runs the dispatch in the foreground (44_host_interface R121). -/
def Obligations.TriggerRunsTheDispatch : Prop :=
  ∀ (s : State) (moves : List Move), s.active = false → s.env = .host .trigger :: moves →
    step s = { s with env := moves }.dispatch .fg

/-- The unguarded operations, at any time, and what they leave alone (44_host_interface R120, R122, R124, R125, R126, R127): each
next state in full. -/
def Obligations.FreeOperationsWriteTheirFields : Prop :=
  ∀ (s : State) (moves : List Move),
    (∀ v, s.env = .host (.setState v) :: moves → step s = .next { s with env := moves, opState := v }) ∧
    (s.env = .host .calibrate :: moves →
      step s = .next { s with env := moves, mcs := { s.mcs with zero := ⟨s.raw.x, s.raw.y⟩ } }) ∧
    (∀ e, s.env = .host (.recordEvent e) :: moves → step s = .next { s with env := moves, lastEvent := some e }) ∧
    (s.env = .host .read :: moves → step s = .next { s with env := moves }) ∧
    (s.env = .host .clearStatus :: moves → step s = .next { s with env := moves, status := ⟨false, false⟩ }) ∧
    (∀ v, s.env = .adc .x v :: moves → step s = .next { s with env := moves, raw := ⟨v, s.raw.y⟩ }) ∧
    (∀ v, s.env = .adc .y v :: moves → step s = .next { s with env := moves, raw := ⟨s.raw.x, v⟩ })

/-- READ's answer (44_host_interface R125, 60_exceptions R132): the fields R125 lists, and the status word with S_RANGE as its bit 0
and S_SHORT as its bit 1. That neither the timer nor the hold is part of it is the model's choice (log 19). -/
def Obligations.ReadShowsTheListedFields : Prop :=
  ∀ s : State,
    s.hostView = ⟨s.pos, s.running, s.opState, s.lastEvent, s.curStep, s.status.word, s.faults, s.dirLine, s.stepLine,
      s.fifo.length⟩ ∧
    s.status.word.getLsbD 0 = s.status.sRange ∧ s.status.word.getLsbD 1 = s.status.sShort

/-- R123: PUSH appends its byte while the byte source has room. -/
def Obligations.PushAppendsWhereThereIsRoom : Prop :=
  ∀ (s : State) (moves : List Move) (b : Byte), s.env = .host (.push b) :: moves →
    (∀ c, s.cfg.fifoCap = some c → s.fifo.length < c) → step s = .next { s with env := moves, fifo := s.fifo ++ [b] }

/-- The model's choice (log 2): where the scheduled agent has no step enabled, its turn passes and nothing else happens. CORE has
none while no latch is set and no dispatch is held, or while a held dispatch is short of bytes (43_pulse_sequencer R108, R113);
TIMER has none while no period is armed (43_pulse_sequencer R104); PUSH is not enabled on a full byte source (44_host_interface
R123). -/
def Obligations.TurnPassesWhereNothingIsEnabled : Prop :=
  ∀ (s : State) (moves : List Move),
    (s.env = .core :: moves → s.stall = none → s.latched = false → step s = .next { s with env := moves }) ∧
    (s.env = .core :: moves → s.stall ≠ none → s.fifo.length < 3 → step s = .next { s with env := moves }) ∧
    (s.env = .timer :: moves → s.tmr.armed = false → step s = .next { s with env := moves }) ∧
    (∀ b c, s.env = .host (.push b) :: moves → s.cfg.fifoCap = some c → c ≤ s.fifo.length →
      step s = .next { s with env := moves })

/-- The boot order of R147 from an inactive state with a record queued: four steps, and the record runs. -/
def Obligations.BootOrderStartsTheProgram : Prop :=
  ∀ (s : State) (c : ConfigureArgs) (b0 b1 b2 : Byte) (rest : List Byte) (moves : List Move), s.active = false →
    s.fifo = b0 :: b1 :: b2 :: rest → s.env = bootMoves c .runningProgram ++ moves →
    core.run 4 s = exec (decodeRecord s.cfg.flagLayout b0 b1 b2) { s with
      params := ⟨c.clockFreq, c.stepsPerMm, c.maxSpeed, c.maxAccel⟩
      mcs := { s.mcs with deadzone := c.deadzone, minFeed := c.minFeed, maxFeed := c.maxFeed, zero := s.raw }
      opState := .runningProgram, running := true, fifo := rest, streamPos := s.streamPos + 3, env := moves }

/-! ## Rules of the whole machine -/

/-- No step stops: the block raises no exception and takes no trap (60_exceptions R130). -/
def Obligations.EveryStepGoesOn : Prop := ∀ s : State, ∃ t, step s = .next t

/-- Only the host's SET_STATE writes `opState` (10_state R25). -/
def Obligations.OnlySetStateWritesOpState : Prop :=
  ∀ s t : State, step s = .next t → t.opState ≠ s.opState →
    ∃ moves, s.env = .host (.setState t.opState) :: moves

/-- A recorded fault is never removed by any step (10_state R34). -/
def Obligations.FaultsAreNeverRemoved : Prop :=
  ∀ s t : State, step s = .next t → ∀ f, f ∈ s.faults → f ∈ t.faults

/-- `trace` is append-only (10_state R40). -/
def Obligations.TraceIsAppendOnly : Prop := ∀ s t : State, step s = .next t → s.trace <+: t.trace

/-- The status bits are sticky: only CLEAR_STATUS clears one (10_state R33, 60_exceptions R132). -/
def Obligations.StatusBitsAreSticky : Prop :=
  ∀ s t : State, step s = .next t → (∀ moves, s.env ≠ .host .clearStatus :: moves) →
    (s.status.sRange = true → t.status.sRange = true) ∧ (s.status.sShort = true → t.status.sShort = true)

/-- The stream is consumed from the front three bytes at a time with `streamPos` advancing by 3, bytes are added at its end by PUSH
alone, and nothing else changes it (10_state R35, R36, 20_memory R47, R56). -/
def Obligations.StreamIsConsumedByRecords : Prop :=
  ∀ s t : State, step s = .next t →
    (t.streamPos = s.streamPos ∧ t.fifo = s.fifo) ∨
    (t.streamPos = s.streamPos ∧ ∃ b moves, s.env = .host (.push b) :: moves ∧ t.fifo = s.fifo ++ [b]) ∨
    (t.streamPos = s.streamPos + 3 ∧ 3 ≤ s.fifo.length ∧ t.fifo = s.fifo.drop 3)

/-- Derived from 70_reset_and_hazards R146 and 43_pulse_sequencer R111: a position component changes only where CORE serves a
latched step event, the latch being cleared, for an axis whose step flag is set in `curStep`, and then by one in the axis'
direction (as two's complement of POS_WIDTH bits). So no host operation writes it. The change by one, on a stepping axis, for
each served event is R117, which the spec marks as derived from R111, an inference of its own. A POS_WIDTH other than 32 (log
22) and CORE's move made with nothing scheduled (log 1) are the model's choices. -/
def Obligations.PositionMovesOnlyByTracking : Prop :=
  ∀ s t : State, step s = .next t → ∀ a, t.pos.get a = s.pos.get a ∨
    ((s.env = [] ∨ ∃ moves, s.env = .core :: moves) ∧ s.tmr.stepPend = true ∧ t.tmr.stepPend = false ∧ s.stall = none ∧
      s.curStep.step.get a = true ∧
      t.pos.get a = (s.pos.get a + if s.curStep.dir.get a then 1 else -1).bmod (2 ^ s.cfg.posWidth))

/-- No step but RECORD_EVENT reads or writes `lastEvent` (10_state R26). -/
def Obligations.LastEventIsNotConsumed : Prop :=
  ∀ (s t : State) (e : Option Event), (∀ ev moves, s.env ≠ .host (.recordEvent ev) :: moves) → step s = .next t →
    t.lastEvent = s.lastEvent ∧ step { s with lastEvent := e } = .next { t with lastEvent := e }

/-- `maxSpeed` and `maxAccel` are read by no rule (10_state R24). -/
def Obligations.MaxSpeedAndAccelAreNotRead : Prop :=
  ∀ (s t : State) (v a : ConfigReal), (∀ c moves, s.env ≠ .host (.configure c) :: moves) → step s = .next t →
    step { s with params := { s.params with maxSpeed := v, maxAccel := a } } =
      .next { t with params := { t.params with maxSpeed := v, maxAccel := a } }

/-- The parameters fixed for a run are changed by no step (00_scope R9, 10_state R20, R32). -/
def Obligations.ParametersAreFixed : Prop :=
  ∀ s t : State, step s = .next t →
    t.cfg = s.cfg ∧ t.tmr.cmpDir = s.tmr.cmpDir ∧ t.tmr.cmpStep = s.tmr.cmpStep

/-- A quiescent block stays quiescent, and its position, lines, timer, `curStep`, stream position and trace stay as they are, under
every move but TRIGGER (70_reset_and_hazards R148, R151). -/
def Obligations.QuiescentUntilTriggered : Prop :=
  ∀ s t : State, s.Quiescent → (∀ moves, s.env ≠ .host .trigger :: moves) → step s = .next t →
    t.Quiescent ∧ t.pos = s.pos ∧ t.dirLine = s.dirLine ∧ t.stepLine = s.stepLine ∧ t.tmr = s.tmr ∧
      t.curStep = s.curStep ∧ t.streamPos = s.streamPos ∧ t.trace = s.trace

/-- 43_pulse_sequencer R116, which the spec marks as derived, an inference of its own: while a period is in flight no step arms
another, and its reload and Step stay; when a step arms one, every latch is clear. -/
def Obligations.PeriodsNeverOverlap : Prop :=
  ∀ s t : State, s.Inv → step s = .next t →
    (s.tmr.armed = true →
      t.trace.countP TraceEvent.isArmed = s.trace.countP TraceEvent.isArmed ∧ t.curStep = s.curStep ∧
      t.tmr.reload = s.tmr.reload) ∧
    (t.trace.countP TraceEvent.isArmed ≠ s.trace.countP TraceEvent.isArmed →
      s.tmr.armed = false ∧ t.tmr.armed = true ∧ t.latched = false)

/-- R144: every field after reset. The parameters are the model's configuration argument and the samples a draw, so both are the
argument `a` (log 6, log 8); nothing is said of the model's own `env` and `draws` (log 1, log 5). -/
def Obligations.ResetValues : Prop :=
  State.reset = State.resetWith .given ∧ ModelArgs.given.zeroInit = ⟨128, 128⟩ ∧ ∀ a : ModelArgs, State.resetWith a = {
    pos := ⟨0, 0, 0⟩, params := a.params, opState := .ready, lastEvent := none
    curStep := ⟨0, ⟨false, false, false⟩, ⟨false, false, false⟩⟩
    mcs := {
      last := ⟨⟨0, .num ⟨0, 0⟩⟩, ⟨0, .num ⟨0, 0⟩⟩⟩, deadzone := a.deadzone, minFeed := a.minFeed, maxFeed := a.maxFeed
      zero := a.zeroInit, n := 0, previousCoord := ⟨0, .num ⟨0, 0⟩⟩, newCoord := ⟨0, .num ⟨0, 0⟩⟩ }
    running := false, dirLine := ⟨false, false, false⟩, stepLine := ⟨false, false, false⟩
    tmr := {
      reload := 0, onePulse := false, armed := false, phase := .done, cmpDir := a.cmpDir, cmpStep := a.cmpStep
      dirPend := false, stepPend := false, updPend := false, fireDir := false, fireStep := false }
    status := ⟨false, false⟩, faults := [], fifo := [], streamPos := 0, raw := a.raw, stall := none, trace := []
    cfg := a.cfg, env := (State.resetWith a).env, draws := (State.resetWith a).draws }

/-- The values 00_scope R9 gives its parameters where it gives one: the widths, FLAG_LAYOUT, RANGE_POLICY, NUMERICS and FIFO_CAP of
the configuration `State.reset` takes. -/
def Obligations.GivenParameters : Prop :=
  State.reset.cfg = {
    dirPolarity := State.reset.cfg.dirPolarity, idleReload := State.reset.cfg.idleReload
    flagLayout := ⟨0, 1, 2, 3, 4, 5⟩, rangePolicy := .wrap, numerics := .exact, posWidth := 32, timerWidth := 16
    counterWidth := none, fifoCap := none }

/-- R145: after reset no period is armed, no latch is set, and neither CORE nor TIMER has a step. -/
def Obligations.NothingRunsAfterReset : Prop :=
  ∀ a : ModelArgs, (State.resetWith a).tmr.armed = false ∧ (State.resetWith a).latched = false ∧
    (State.resetWith a).coreStep = none ∧ (State.resetWith a).timerStep = none ∧
    step (State.resetWith a) = .next (State.resetWith a)

/-- The invariant holds after reset (70_reset_and_hazards R144), whatever the parameters. -/
def Obligations.InvariantHoldsAfterReset : Prop := ∀ a : ModelArgs, (State.resetWith a).Inv

/-- Every step keeps the invariant (10_state R30, R31, R36, 43_pulse_sequencer R107, R113, R115, R116). Its clauses on the
reload, the position and the counter are the model's choice at widths other than the defaults (log 21, log 22). -/
def Obligations.EveryStepKeepsTheInvariant : Prop := ∀ s t : State, s.Inv → step s = .next t → t.Inv
end

