-- ==== Sys2Proof/Laws/Reals.lean ====
section
/-! SUPPORT. The laws of the exact arithmetic (41_step_interpolator R73): each of its operations is the real operation it is
named after, over every radicand and every configuration. The laws of `isqrt` and of surds stand in Machine/Reals.lean. -/

namespace Sys2Proof

/-- Every assignment of reals to the names of a configuration is covered (log 9). -/
theorem NamedReals.exists_val (val : Nat → ℝ) : ∃ r : NamedReals, r.val = val :=
  open Classical in
  ⟨⟨val, fun a => ⌊a.expr.eval val a.rad⌋, fun a b => decide (a.expr.eval val a.rad = b.expr.eval val b.rad), fun _ => rfl,
    fun _ _ => by simp⟩, rfl⟩

/-- The real number of an expression in the model's configuration. -/
noncomputable abbrev RealExpr.toReal (rad : Nat) (a : RealExpr) : ℝ := a.eval Config.reals.val rad

@[simp] theorem Number.toReal_ofRat (a : Rat) : (Number.ofRat a).toReal = a := by
  simp [Number.ofRat, Number.toReal, RealExpr.eval, Surd.toReal]

@[simp] theorem ConfigReal.toReal_rat (a : Rat) : (ConfigReal.rat a).toReal = a := rfl

@[simp] theorem ConfigReal.toReal_given (i : Nat) : (ConfigReal.given i).toReal = Config.reals.val i := rfl

namespace RealExpr

variable (rad : Nat)

@[simp] theorem toReal_num (q : Surd) : (num q).toReal rad = q.toReal rad := rfl

@[simp] theorem toReal_configReal (a : ConfigReal) : a.expr.toReal rad = a.toReal := by
  cases a with
  | rat a => simp [ConfigReal.expr, Surd.toReal]
  | given i => rfl

@[simp] theorem toReal_plus (a b : RealExpr) : (a.plus b).toReal rad = a.toReal rad + b.toReal rad := by
  unfold plus; split <;> [exact Surd.toReal_add rad _ _; rfl]

@[simp] theorem toReal_minus (a : RealExpr) : a.minus.toReal rad = -a.toReal rad := by
  unfold minus; split <;> [exact Surd.toReal_neg rad _; rfl]

@[simp] theorem toReal_times (a b : RealExpr) : (a.times rad b).toReal rad = a.toReal rad * b.toReal rad := by
  unfold times; split <;> [exact Surd.toReal_mul rad _ _; rfl]

@[simp] theorem toReal_dividedBy (a b : RealExpr) : (a.dividedBy rad b).toReal rad = a.toReal rad / b.toReal rad := by
  unfold dividedBy
  rw [toReal_times, div_eq_mul_inv]
  split <;> [rw [toReal_num, Surd.toReal_inv, toReal_num]; rfl]

@[simp] theorem floor_eq (a : RealExpr) : a.floor rad = ⌊a.toReal rad⌋ := by
  unfold floor
  split
  · next h => rw [Surd.floor_eq, toReal_surd rad (.inl h)]
  · exact Config.reals.floor_spec ⟨rad, a⟩

@[simp] theorem le_iff (a b : RealExpr) : a.le rad b = true ↔ a.toReal rad ≤ b.toReal rad := by
  unfold le
  rw [decide_eq_true_iff, floor_eq, Int.floor_nonneg, toReal_plus, toReal_minus, ← sub_eq_add_neg, sub_nonneg]

@[simp] theorem round_eq (a : RealExpr) : a.round rad = roundAway (a.toReal rad) := by
  unfold round roundAway
  have h : (num ⟨1 / 2, 0⟩ : RealExpr).toReal rad = 1 / 2 := by simp [Surd.toReal]
  simp only [floor_eq, toReal_plus, toReal_minus, h, Int.floor_nonneg]

end RealExpr

@[simp] theorem Number.same_iff (a b : Number) : a.same b = true ↔ a.toReal = b.toReal := by
  unfold same
  split
  · next h =>
    rw [Bool.and_eq_true] at h
    rw [Surd.same_iff, RealExpr.toReal_surd a.rad (.inl h.1), RealExpr.toReal_surd b.rad (.inl h.2)]; rfl
  · exact Config.reals.same_spec a b

/-! The operations NUMERICS' reference value selects. -/

section Exact

variable (rad : Nat)

@[simp] theorem exact_toReal_int (k : Int) : ((exactArithmetic rad).int k).toReal rad = k := by
  simp [exactArithmetic, Surd.toReal]

@[simp] theorem exact_toReal_normalise (d : Int) : ((exactArithmetic rad).normalise d).toReal rad = d / 128 := by
  simp [exactArithmetic, Surd.toReal]

@[simp] theorem exact_toReal_magnitude (d : PerChannel Int) : ((exactArithmetic rad).magnitude d).toReal rad = √(rad : ℝ) / 128 := by
  simp [exactArithmetic, Surd.toReal]; ring

@[simp] theorem exact_toReal_add (a b : RealExpr) :
    ((exactArithmetic rad).add a b).toReal rad = a.toReal rad + b.toReal rad := RealExpr.toReal_plus rad a b

@[simp] theorem exact_toReal_sub (a b : RealExpr) :
    ((exactArithmetic rad).sub a b).toReal rad = a.toReal rad - b.toReal rad := by
  show (a.plus b.minus).toReal rad = _
  rw [RealExpr.toReal_plus, RealExpr.toReal_minus, sub_eq_add_neg]

@[simp] theorem exact_toReal_mul (a b : RealExpr) :
    ((exactArithmetic rad).mul a b).toReal rad = a.toReal rad * b.toReal rad := RealExpr.toReal_times rad a b

@[simp] theorem exact_toReal_div (a b : RealExpr) :
    ((exactArithmetic rad).div a b).toReal rad = a.toReal rad / b.toReal rad := RealExpr.toReal_dividedBy rad a b

@[simp] theorem exact_le_iff (a b : RealExpr) : (exactArithmetic rad).le a b = true ↔ a.toReal rad ≤ b.toReal rad :=
  RealExpr.le_iff rad a b

@[simp] theorem exact_floor_eq (a : RealExpr) : (exactArithmetic rad).floor a = ⌊a.toReal rad⌋ := RealExpr.floor_eq rad a

@[simp] theorem exact_round_eq (a : RealExpr) : (exactArithmetic rad).round a = roundAway (a.toReal rad) :=
  RealExpr.round_eq rad a

@[simp] theorem exact_same_iff (a b : Number) : (exactArithmetic rad).same a b = true ↔ a.toReal = b.toReal :=
  Number.same_iff a b

@[simp] theorem exact_isZero_iff (a : RealExpr) : (exactArithmetic rad).isZero a = true ↔ a.toReal rad = 0 := by
  rw [Arithmetic.isZero, Bool.and_eq_true, exact_le_iff, exact_le_iff, exact_toReal_int, Int.cast_zero, ← le_antisymm_iff]

@[simp] theorem exact_toReal_min (a b : RealExpr) :
    ((exactArithmetic rad).min a b).toReal rad = min (a.toReal rad) (b.toReal rad) := by
  unfold Arithmetic.min
  by_cases h : a.toReal rad ≤ b.toReal rad
  · rw [if_pos ((exact_le_iff rad a b).2 h), min_eq_left h]
  · rw [if_neg (mt (exact_le_iff rad a b).1 h), min_eq_right (le_of_not_ge h)]

@[simp] theorem exact_toReal_max (a b : RealExpr) :
    ((exactArithmetic rad).max a b).toReal rad = max (a.toReal rad) (b.toReal rad) := by
  unfold Arithmetic.max
  by_cases h : a.toReal rad ≤ b.toReal rad
  · rw [if_pos ((exact_le_iff rad a b).2 h), max_eq_right h]
  · rw [if_neg (mt (exact_le_iff rad a b).1 h), max_eq_left (le_of_not_ge h)]

@[simp] theorem exact_toReal_abs (a : RealExpr) : ((exactArithmetic rad).abs a).toReal rad = |a.toReal rad| := by
  unfold Arithmetic.abs
  by_cases h : 0 ≤ a.toReal rad
  · rw [if_pos ((exact_le_iff rad _ a).2 (by simpa using h)), abs_of_nonneg h]
  · rw [if_neg (mt (exact_le_iff rad _ a).1 (by simpa using h)), abs_of_neg (not_le.1 h)]; simp

/-- The quotient of step 5 is finite exactly where neither divisor is 0, and is then the real quotient
(41_step_interpolator R79, R80). -/
theorem exact_quotient_cases (c f p : RealExpr) :
    ((f.toReal rad = 0 ∨ p.toReal rad = 0) ∧ (exactArithmetic rad).quotient c f p = none) ∨
    (f.toReal rad ≠ 0 ∧ p.toReal rad ≠ 0 ∧ ∃ q, (exactArithmetic rad).quotient c f p = some q ∧
      q.toReal rad = c.toReal rad / f.toReal rad / p.toReal rad) := by
  have z : ∀ a : RealExpr, (a.le rad (.num ⟨0, 0⟩) && RealExpr.le rad (.num ⟨0, 0⟩) a) = true ↔ a.toReal rad = 0 := by
    intro a
    rw [Bool.and_eq_true, RealExpr.le_iff, RealExpr.le_iff, le_antisymm_iff]; simp [Surd.toReal]
  simp only [exactArithmetic, Bool.or_eq_true, z]
  by_cases h : f.toReal rad = 0 ∨ p.toReal rad = 0
  · exact .inl ⟨h, if_pos h⟩
  · exact .inr ⟨fun h' => h (.inl h'), fun h' => h (.inr h'), _, if_neg h, by simp⟩

end Exact
end Sys2Proof
end

