-- ==== Sys2Proof/Laws/State.lean ====
section
/-! SUPPORT. For each shared operation over the state, what each field holds after it: one lemma per field, so that no proof
unfolds a record update. -/

namespace Sys2Proof.Machine

/-- An operation on every axis keeps what the operation on one axis keeps. -/
theorem forAxes_keeps {β : Type} (g : State → β) (f : Axis → State → State) (h : ∀ a s, g (f a s) = g s) (s : State) :
    g (forAxes f s) = g s := by simp [forAxes, h]


/-! `raiseFault`. -/

@[simp] theorem State.raiseFault_pos (s : State) (f : FaultRecord) :
    (s.raiseFault f).pos = s.pos := by unfold State.raiseFault; split <;> rfl
@[simp] theorem State.raiseFault_params (s : State) (f : FaultRecord) :
    (s.raiseFault f).params = s.params := by unfold State.raiseFault; split <;> rfl
@[simp] theorem State.raiseFault_opState (s : State) (f : FaultRecord) :
    (s.raiseFault f).opState = s.opState := by unfold State.raiseFault; split <;> rfl
@[simp] theorem State.raiseFault_lastEvent (s : State) (f : FaultRecord) :
    (s.raiseFault f).lastEvent = s.lastEvent := by unfold State.raiseFault; split <;> rfl
@[simp] theorem State.raiseFault_curStep (s : State) (f : FaultRecord) :
    (s.raiseFault f).curStep = s.curStep := by unfold State.raiseFault; split <;> rfl
@[simp] theorem State.raiseFault_mcs (s : State) (f : FaultRecord) :
    (s.raiseFault f).mcs = s.mcs := by unfold State.raiseFault; split <;> rfl
@[simp] theorem State.raiseFault_running (s : State) (f : FaultRecord) :
    (s.raiseFault f).running = s.running := by unfold State.raiseFault; split <;> rfl
@[simp] theorem State.raiseFault_dirLine (s : State) (f : FaultRecord) :
    (s.raiseFault f).dirLine = s.dirLine := by unfold State.raiseFault; split <;> rfl
@[simp] theorem State.raiseFault_stepLine (s : State) (f : FaultRecord) :
    (s.raiseFault f).stepLine = s.stepLine := by unfold State.raiseFault; split <;> rfl
@[simp] theorem State.raiseFault_tmr (s : State) (f : FaultRecord) :
    (s.raiseFault f).tmr = s.tmr := by unfold State.raiseFault; split <;> rfl
@[simp] theorem State.raiseFault_status (s : State) (f : FaultRecord) :
    (s.raiseFault f).status = s.status := by unfold State.raiseFault; split <;> rfl
@[simp] theorem State.raiseFault_fifo (s : State) (f : FaultRecord) :
    (s.raiseFault f).fifo = s.fifo := by unfold State.raiseFault; split <;> rfl
@[simp] theorem State.raiseFault_streamPos (s : State) (f : FaultRecord) :
    (s.raiseFault f).streamPos = s.streamPos := by unfold State.raiseFault; split <;> rfl
@[simp] theorem State.raiseFault_raw (s : State) (f : FaultRecord) :
    (s.raiseFault f).raw = s.raw := by unfold State.raiseFault; split <;> rfl
@[simp] theorem State.raiseFault_stall (s : State) (f : FaultRecord) :
    (s.raiseFault f).stall = s.stall := by unfold State.raiseFault; split <;> rfl
@[simp] theorem State.raiseFault_trace (s : State) (f : FaultRecord) :
    (s.raiseFault f).trace = s.trace := by unfold State.raiseFault; split <;> rfl
@[simp] theorem State.raiseFault_cfg (s : State) (f : FaultRecord) :
    (s.raiseFault f).cfg = s.cfg := by unfold State.raiseFault; split <;> rfl
@[simp] theorem State.raiseFault_env (s : State) (f : FaultRecord) :
    (s.raiseFault f).env = s.env := by unfold State.raiseFault; split <;> rfl
@[simp] theorem State.raiseFault_draws (s : State) (f : FaultRecord) :
    (s.raiseFault f).draws = s.draws := by unfold State.raiseFault; split <;> rfl
@[simp] theorem State.raiseFault_faults (s : State) (f : FaultRecord) :
    (s.raiseFault f).faults = if f ∈ s.faults then s.faults else s.faults ++ [f] := by unfold State.raiseFault; split <;> rfl

/-! `resetLines`. -/

@[simp] theorem State.resetLines_pos (s : State) :
    (s.resetLines).pos = s.pos := rfl
@[simp] theorem State.resetLines_params (s : State) :
    (s.resetLines).params = s.params := rfl
@[simp] theorem State.resetLines_opState (s : State) :
    (s.resetLines).opState = s.opState := rfl
@[simp] theorem State.resetLines_lastEvent (s : State) :
    (s.resetLines).lastEvent = s.lastEvent := rfl
@[simp] theorem State.resetLines_curStep (s : State) :
    (s.resetLines).curStep = s.curStep := rfl
@[simp] theorem State.resetLines_mcs (s : State) :
    (s.resetLines).mcs = s.mcs := rfl
@[simp] theorem State.resetLines_running (s : State) :
    (s.resetLines).running = s.running := rfl
@[simp] theorem State.resetLines_dirLine (s : State) :
    (s.resetLines).dirLine = .all false := rfl
@[simp] theorem State.resetLines_stepLine (s : State) :
    (s.resetLines).stepLine = .all false := rfl
@[simp] theorem State.resetLines_tmr (s : State) :
    (s.resetLines).tmr = s.tmr := rfl
@[simp] theorem State.resetLines_status (s : State) :
    (s.resetLines).status = s.status := rfl
@[simp] theorem State.resetLines_faults (s : State) :
    (s.resetLines).faults = s.faults := rfl
@[simp] theorem State.resetLines_fifo (s : State) :
    (s.resetLines).fifo = s.fifo := rfl
@[simp] theorem State.resetLines_streamPos (s : State) :
    (s.resetLines).streamPos = s.streamPos := rfl
@[simp] theorem State.resetLines_raw (s : State) :
    (s.resetLines).raw = s.raw := rfl
@[simp] theorem State.resetLines_stall (s : State) :
    (s.resetLines).stall = s.stall := rfl
@[simp] theorem State.resetLines_trace (s : State) :
    (s.resetLines).trace = s.trace ++ [.linesReset] := rfl
@[simp] theorem State.resetLines_cfg (s : State) :
    (s.resetLines).cfg = s.cfg := rfl
@[simp] theorem State.resetLines_env (s : State) :
    (s.resetLines).env = s.env := rfl
@[simp] theorem State.resetLines_draws (s : State) :
    (s.resetLines).draws = s.draws := rfl

/-! `assertDir`. -/

@[simp] theorem State.assertDir_pos (s : State) (a : Axis) :
    (s.assertDir a).pos = s.pos := rfl
@[simp] theorem State.assertDir_params (s : State) (a : Axis) :
    (s.assertDir a).params = s.params := rfl
@[simp] theorem State.assertDir_opState (s : State) (a : Axis) :
    (s.assertDir a).opState = s.opState := rfl
@[simp] theorem State.assertDir_lastEvent (s : State) (a : Axis) :
    (s.assertDir a).lastEvent = s.lastEvent := rfl
@[simp] theorem State.assertDir_curStep (s : State) (a : Axis) :
    (s.assertDir a).curStep = s.curStep := rfl
@[simp] theorem State.assertDir_mcs (s : State) (a : Axis) :
    (s.assertDir a).mcs = s.mcs := rfl
@[simp] theorem State.assertDir_running (s : State) (a : Axis) :
    (s.assertDir a).running = s.running := rfl
@[simp] theorem State.assertDir_dirLine (s : State) (a : Axis) :
    (s.assertDir a).dirLine = s.dirLine.set a true := rfl
@[simp] theorem State.assertDir_stepLine (s : State) (a : Axis) :
    (s.assertDir a).stepLine = s.stepLine := rfl
@[simp] theorem State.assertDir_tmr (s : State) (a : Axis) :
    (s.assertDir a).tmr = s.tmr := rfl
@[simp] theorem State.assertDir_status (s : State) (a : Axis) :
    (s.assertDir a).status = s.status := rfl
@[simp] theorem State.assertDir_faults (s : State) (a : Axis) :
    (s.assertDir a).faults = s.faults := rfl
@[simp] theorem State.assertDir_fifo (s : State) (a : Axis) :
    (s.assertDir a).fifo = s.fifo := rfl
@[simp] theorem State.assertDir_streamPos (s : State) (a : Axis) :
    (s.assertDir a).streamPos = s.streamPos := rfl
@[simp] theorem State.assertDir_raw (s : State) (a : Axis) :
    (s.assertDir a).raw = s.raw := rfl
@[simp] theorem State.assertDir_stall (s : State) (a : Axis) :
    (s.assertDir a).stall = s.stall := rfl
@[simp] theorem State.assertDir_trace (s : State) (a : Axis) :
    (s.assertDir a).trace = s.trace ++ [.dirAsserted a] := rfl
@[simp] theorem State.assertDir_cfg (s : State) (a : Axis) :
    (s.assertDir a).cfg = s.cfg := rfl
@[simp] theorem State.assertDir_env (s : State) (a : Axis) :
    (s.assertDir a).env = s.env := rfl
@[simp] theorem State.assertDir_draws (s : State) (a : Axis) :
    (s.assertDir a).draws = s.draws := rfl

/-! `assertStep`. -/

@[simp] theorem State.assertStep_pos (s : State) (a : Axis) :
    (s.assertStep a).pos = s.pos := rfl
@[simp] theorem State.assertStep_params (s : State) (a : Axis) :
    (s.assertStep a).params = s.params := rfl
@[simp] theorem State.assertStep_opState (s : State) (a : Axis) :
    (s.assertStep a).opState = s.opState := rfl
@[simp] theorem State.assertStep_lastEvent (s : State) (a : Axis) :
    (s.assertStep a).lastEvent = s.lastEvent := rfl
@[simp] theorem State.assertStep_curStep (s : State) (a : Axis) :
    (s.assertStep a).curStep = s.curStep := rfl
@[simp] theorem State.assertStep_mcs (s : State) (a : Axis) :
    (s.assertStep a).mcs = s.mcs := rfl
@[simp] theorem State.assertStep_running (s : State) (a : Axis) :
    (s.assertStep a).running = s.running := rfl
@[simp] theorem State.assertStep_dirLine (s : State) (a : Axis) :
    (s.assertStep a).dirLine = s.dirLine := rfl
@[simp] theorem State.assertStep_stepLine (s : State) (a : Axis) :
    (s.assertStep a).stepLine = s.stepLine.set a true := rfl
@[simp] theorem State.assertStep_tmr (s : State) (a : Axis) :
    (s.assertStep a).tmr = s.tmr := rfl
@[simp] theorem State.assertStep_status (s : State) (a : Axis) :
    (s.assertStep a).status = s.status := rfl
@[simp] theorem State.assertStep_faults (s : State) (a : Axis) :
    (s.assertStep a).faults = s.faults := rfl
@[simp] theorem State.assertStep_fifo (s : State) (a : Axis) :
    (s.assertStep a).fifo = s.fifo := rfl
@[simp] theorem State.assertStep_streamPos (s : State) (a : Axis) :
    (s.assertStep a).streamPos = s.streamPos := rfl
@[simp] theorem State.assertStep_raw (s : State) (a : Axis) :
    (s.assertStep a).raw = s.raw := rfl
@[simp] theorem State.assertStep_stall (s : State) (a : Axis) :
    (s.assertStep a).stall = s.stall := rfl
@[simp] theorem State.assertStep_trace (s : State) (a : Axis) :
    (s.assertStep a).trace = s.trace ++ [.stepAsserted a] := rfl
@[simp] theorem State.assertStep_cfg (s : State) (a : Axis) :
    (s.assertStep a).cfg = s.cfg := rfl
@[simp] theorem State.assertStep_env (s : State) (a : Axis) :
    (s.assertStep a).env = s.env := rfl
@[simp] theorem State.assertStep_draws (s : State) (a : Axis) :
    (s.assertStep a).draws = s.draws := rfl

/-! `pushByte`. -/

@[simp] theorem State.pushByte_pos (s : State) (b : Byte) :
    (s.pushByte b).pos = s.pos := rfl
@[simp] theorem State.pushByte_params (s : State) (b : Byte) :
    (s.pushByte b).params = s.params := rfl
@[simp] theorem State.pushByte_opState (s : State) (b : Byte) :
    (s.pushByte b).opState = s.opState := rfl
@[simp] theorem State.pushByte_lastEvent (s : State) (b : Byte) :
    (s.pushByte b).lastEvent = s.lastEvent := rfl
@[simp] theorem State.pushByte_curStep (s : State) (b : Byte) :
    (s.pushByte b).curStep = s.curStep := rfl
@[simp] theorem State.pushByte_mcs (s : State) (b : Byte) :
    (s.pushByte b).mcs = s.mcs := rfl
@[simp] theorem State.pushByte_running (s : State) (b : Byte) :
    (s.pushByte b).running = s.running := rfl
@[simp] theorem State.pushByte_dirLine (s : State) (b : Byte) :
    (s.pushByte b).dirLine = s.dirLine := rfl
@[simp] theorem State.pushByte_stepLine (s : State) (b : Byte) :
    (s.pushByte b).stepLine = s.stepLine := rfl
@[simp] theorem State.pushByte_tmr (s : State) (b : Byte) :
    (s.pushByte b).tmr = s.tmr := rfl
@[simp] theorem State.pushByte_status (s : State) (b : Byte) :
    (s.pushByte b).status = s.status := rfl
@[simp] theorem State.pushByte_faults (s : State) (b : Byte) :
    (s.pushByte b).faults = s.faults := rfl
@[simp] theorem State.pushByte_fifo (s : State) (b : Byte) :
    (s.pushByte b).fifo = s.fifo ++ [b] := rfl
@[simp] theorem State.pushByte_streamPos (s : State) (b : Byte) :
    (s.pushByte b).streamPos = s.streamPos := rfl
@[simp] theorem State.pushByte_raw (s : State) (b : Byte) :
    (s.pushByte b).raw = s.raw := rfl
@[simp] theorem State.pushByte_stall (s : State) (b : Byte) :
    (s.pushByte b).stall = s.stall := rfl
@[simp] theorem State.pushByte_trace (s : State) (b : Byte) :
    (s.pushByte b).trace = s.trace := rfl
@[simp] theorem State.pushByte_cfg (s : State) (b : Byte) :
    (s.pushByte b).cfg = s.cfg := rfl
@[simp] theorem State.pushByte_env (s : State) (b : Byte) :
    (s.pushByte b).env = s.env := rfl
@[simp] theorem State.pushByte_draws (s : State) (b : Byte) :
    (s.pushByte b).draws = s.draws := rfl

/-! `noteRange`. -/

@[simp] theorem State.noteRange_pos (s : State) (o : Bool) :
    (s.noteRange o).pos = s.pos := rfl
@[simp] theorem State.noteRange_params (s : State) (o : Bool) :
    (s.noteRange o).params = s.params := rfl
@[simp] theorem State.noteRange_opState (s : State) (o : Bool) :
    (s.noteRange o).opState = s.opState := rfl
@[simp] theorem State.noteRange_lastEvent (s : State) (o : Bool) :
    (s.noteRange o).lastEvent = s.lastEvent := rfl
@[simp] theorem State.noteRange_curStep (s : State) (o : Bool) :
    (s.noteRange o).curStep = s.curStep := rfl
@[simp] theorem State.noteRange_mcs (s : State) (o : Bool) :
    (s.noteRange o).mcs = s.mcs := rfl
@[simp] theorem State.noteRange_running (s : State) (o : Bool) :
    (s.noteRange o).running = s.running := rfl
@[simp] theorem State.noteRange_dirLine (s : State) (o : Bool) :
    (s.noteRange o).dirLine = s.dirLine := rfl
@[simp] theorem State.noteRange_stepLine (s : State) (o : Bool) :
    (s.noteRange o).stepLine = s.stepLine := rfl
@[simp] theorem State.noteRange_tmr (s : State) (o : Bool) :
    (s.noteRange o).tmr = s.tmr := rfl
@[simp] theorem State.noteRange_status (s : State) (o : Bool) :
    (s.noteRange o).status = ⟨s.status.sRange || o, s.status.sShort⟩ := rfl
@[simp] theorem State.noteRange_faults (s : State) (o : Bool) :
    (s.noteRange o).faults = s.faults := rfl
@[simp] theorem State.noteRange_fifo (s : State) (o : Bool) :
    (s.noteRange o).fifo = s.fifo := rfl
@[simp] theorem State.noteRange_streamPos (s : State) (o : Bool) :
    (s.noteRange o).streamPos = s.streamPos := rfl
@[simp] theorem State.noteRange_raw (s : State) (o : Bool) :
    (s.noteRange o).raw = s.raw := rfl
@[simp] theorem State.noteRange_stall (s : State) (o : Bool) :
    (s.noteRange o).stall = s.stall := rfl
@[simp] theorem State.noteRange_trace (s : State) (o : Bool) :
    (s.noteRange o).trace = s.trace := rfl
@[simp] theorem State.noteRange_cfg (s : State) (o : Bool) :
    (s.noteRange o).cfg = s.cfg := rfl
@[simp] theorem State.noteRange_env (s : State) (o : Bool) :
    (s.noteRange o).env = s.env := rfl
@[simp] theorem State.noteRange_draws (s : State) (o : Bool) :
    (s.noteRange o).draws = s.draws := rfl

/-! `adcSample`. -/

@[simp] theorem State.adcSample_pos (s : State) (ch : Channel) (v : Byte) :
    (s.adcSample ch v).pos = s.pos := by cases ch <;> rfl
@[simp] theorem State.adcSample_params (s : State) (ch : Channel) (v : Byte) :
    (s.adcSample ch v).params = s.params := by cases ch <;> rfl
@[simp] theorem State.adcSample_opState (s : State) (ch : Channel) (v : Byte) :
    (s.adcSample ch v).opState = s.opState := by cases ch <;> rfl
@[simp] theorem State.adcSample_lastEvent (s : State) (ch : Channel) (v : Byte) :
    (s.adcSample ch v).lastEvent = s.lastEvent := by cases ch <;> rfl
@[simp] theorem State.adcSample_curStep (s : State) (ch : Channel) (v : Byte) :
    (s.adcSample ch v).curStep = s.curStep := by cases ch <;> rfl
@[simp] theorem State.adcSample_mcs (s : State) (ch : Channel) (v : Byte) :
    (s.adcSample ch v).mcs = s.mcs := by cases ch <;> rfl
@[simp] theorem State.adcSample_running (s : State) (ch : Channel) (v : Byte) :
    (s.adcSample ch v).running = s.running := by cases ch <;> rfl
@[simp] theorem State.adcSample_dirLine (s : State) (ch : Channel) (v : Byte) :
    (s.adcSample ch v).dirLine = s.dirLine := by cases ch <;> rfl
@[simp] theorem State.adcSample_stepLine (s : State) (ch : Channel) (v : Byte) :
    (s.adcSample ch v).stepLine = s.stepLine := by cases ch <;> rfl
@[simp] theorem State.adcSample_tmr (s : State) (ch : Channel) (v : Byte) :
    (s.adcSample ch v).tmr = s.tmr := by cases ch <;> rfl
@[simp] theorem State.adcSample_status (s : State) (ch : Channel) (v : Byte) :
    (s.adcSample ch v).status = s.status := by cases ch <;> rfl
@[simp] theorem State.adcSample_faults (s : State) (ch : Channel) (v : Byte) :
    (s.adcSample ch v).faults = s.faults := by cases ch <;> rfl
@[simp] theorem State.adcSample_fifo (s : State) (ch : Channel) (v : Byte) :
    (s.adcSample ch v).fifo = s.fifo := by cases ch <;> rfl
@[simp] theorem State.adcSample_streamPos (s : State) (ch : Channel) (v : Byte) :
    (s.adcSample ch v).streamPos = s.streamPos := by cases ch <;> rfl
@[simp] theorem State.adcSample_stall (s : State) (ch : Channel) (v : Byte) :
    (s.adcSample ch v).stall = s.stall := by cases ch <;> rfl
@[simp] theorem State.adcSample_trace (s : State) (ch : Channel) (v : Byte) :
    (s.adcSample ch v).trace = s.trace := by cases ch <;> rfl
@[simp] theorem State.adcSample_cfg (s : State) (ch : Channel) (v : Byte) :
    (s.adcSample ch v).cfg = s.cfg := by cases ch <;> rfl
@[simp] theorem State.adcSample_env (s : State) (ch : Channel) (v : Byte) :
    (s.adcSample ch v).env = s.env := by cases ch <;> rfl
@[simp] theorem State.adcSample_draws (s : State) (ch : Channel) (v : Byte) :
    (s.adcSample ch v).draws = s.draws := by cases ch <;> rfl

/-! `configure`. -/

@[simp] theorem State.configure_pos (s : State) (c : ConfigureArgs) :
    (s.configure c).pos = s.pos := rfl
@[simp] theorem State.configure_params (s : State) (c : ConfigureArgs) :
    (s.configure c).params = ⟨c.clockFreq, c.stepsPerMm, c.maxSpeed, c.maxAccel⟩ := rfl
@[simp] theorem State.configure_opState (s : State) (c : ConfigureArgs) :
    (s.configure c).opState = s.opState := rfl
@[simp] theorem State.configure_lastEvent (s : State) (c : ConfigureArgs) :
    (s.configure c).lastEvent = s.lastEvent := rfl
@[simp] theorem State.configure_curStep (s : State) (c : ConfigureArgs) :
    (s.configure c).curStep = s.curStep := rfl
@[simp] theorem State.configure_mcs (s : State) (c : ConfigureArgs) :
    (s.configure c).mcs = { s.mcs with deadzone := c.deadzone, minFeed := c.minFeed, maxFeed := c.maxFeed, zero := ⟨c.zeroX, c.zeroY⟩ } := rfl
@[simp] theorem State.configure_running (s : State) (c : ConfigureArgs) :
    (s.configure c).running = s.running := rfl
@[simp] theorem State.configure_dirLine (s : State) (c : ConfigureArgs) :
    (s.configure c).dirLine = s.dirLine := rfl
@[simp] theorem State.configure_stepLine (s : State) (c : ConfigureArgs) :
    (s.configure c).stepLine = s.stepLine := rfl
@[simp] theorem State.configure_tmr (s : State) (c : ConfigureArgs) :
    (s.configure c).tmr = s.tmr := rfl
@[simp] theorem State.configure_status (s : State) (c : ConfigureArgs) :
    (s.configure c).status = s.status := rfl
@[simp] theorem State.configure_faults (s : State) (c : ConfigureArgs) :
    (s.configure c).faults = s.faults := rfl
@[simp] theorem State.configure_fifo (s : State) (c : ConfigureArgs) :
    (s.configure c).fifo = s.fifo := rfl
@[simp] theorem State.configure_streamPos (s : State) (c : ConfigureArgs) :
    (s.configure c).streamPos = s.streamPos := rfl
@[simp] theorem State.configure_raw (s : State) (c : ConfigureArgs) :
    (s.configure c).raw = s.raw := rfl
@[simp] theorem State.configure_stall (s : State) (c : ConfigureArgs) :
    (s.configure c).stall = s.stall := rfl
@[simp] theorem State.configure_trace (s : State) (c : ConfigureArgs) :
    (s.configure c).trace = s.trace := rfl
@[simp] theorem State.configure_cfg (s : State) (c : ConfigureArgs) :
    (s.configure c).cfg = s.cfg := rfl
@[simp] theorem State.configure_env (s : State) (c : ConfigureArgs) :
    (s.configure c).env = s.env := rfl
@[simp] theorem State.configure_draws (s : State) (c : ConfigureArgs) :
    (s.configure c).draws = s.draws := rfl

/-! `arm`. -/

@[simp] theorem State.arm_pos (s : State) (v : Nat) :
    (s.arm v).pos = s.pos := rfl
@[simp] theorem State.arm_params (s : State) (v : Nat) :
    (s.arm v).params = s.params := rfl
@[simp] theorem State.arm_opState (s : State) (v : Nat) :
    (s.arm v).opState = s.opState := rfl
@[simp] theorem State.arm_lastEvent (s : State) (v : Nat) :
    (s.arm v).lastEvent = s.lastEvent := rfl
@[simp] theorem State.arm_curStep (s : State) (v : Nat) :
    (s.arm v).curStep = s.curStep := rfl
@[simp] theorem State.arm_mcs (s : State) (v : Nat) :
    (s.arm v).mcs = s.mcs := rfl
@[simp] theorem State.arm_running (s : State) (v : Nat) :
    (s.arm v).running = s.running := rfl
@[simp] theorem State.arm_dirLine (s : State) (v : Nat) :
    (s.arm v).dirLine = s.dirLine := rfl
@[simp] theorem State.arm_stepLine (s : State) (v : Nat) :
    (s.arm v).stepLine = s.stepLine := rfl
@[simp] theorem State.arm_tmr (s : State) (v : Nat) :
    (s.arm v).tmr = { s.tmr with
        reload := v, onePulse := true, dirPend := false, stepPend := false, updPend := false
        fireDir := decide (s.tmr.cmpDir < v) || Config.freeBit s.draws
        fireStep := decide (s.tmr.cmpStep < v) || Config.freeBit (s.draws + 1)
        phase := .dir, armed := true } := rfl
@[simp] theorem State.arm_status (s : State) (v : Nat) :
    (s.arm v).status = ⟨s.status.sRange, s.status.sShort || s.isShort v⟩ := rfl
@[simp] theorem State.arm_faults (s : State) (v : Nat) :
    (s.arm v).faults = s.faults := rfl
@[simp] theorem State.arm_fifo (s : State) (v : Nat) :
    (s.arm v).fifo = s.fifo := rfl
@[simp] theorem State.arm_streamPos (s : State) (v : Nat) :
    (s.arm v).streamPos = s.streamPos := rfl
@[simp] theorem State.arm_raw (s : State) (v : Nat) :
    (s.arm v).raw = s.raw := rfl
@[simp] theorem State.arm_stall (s : State) (v : Nat) :
    (s.arm v).stall = s.stall := rfl
@[simp] theorem State.arm_trace (s : State) (v : Nat) :
    (s.arm v).trace = s.trace ++ [.armed v] := rfl
@[simp] theorem State.arm_cfg (s : State) (v : Nat) :
    (s.arm v).cfg = s.cfg := rfl
@[simp] theorem State.arm_env (s : State) (v : Nat) :
    (s.arm v).env = s.env := rfl
@[simp] theorem State.arm_draws (s : State) (v : Nat) :
    (s.arm v).draws = s.draws + 2 := rfl

/-! `execute`. -/

@[simp] theorem State.execute_pos (s : State) (st : Step) :
    (s.execute st).pos = s.pos := by unfold State.execute State.startIdle State.startCycle; split <;> [split <;> simp; simp]
@[simp] theorem State.execute_params (s : State) (st : Step) :
    (s.execute st).params = s.params := by unfold State.execute State.startIdle State.startCycle; split <;> [split <;> simp; simp]
@[simp] theorem State.execute_opState (s : State) (st : Step) :
    (s.execute st).opState = s.opState := by unfold State.execute State.startIdle State.startCycle; split <;> [split <;> simp; simp]
@[simp] theorem State.execute_lastEvent (s : State) (st : Step) :
    (s.execute st).lastEvent = s.lastEvent := by unfold State.execute State.startIdle State.startCycle; split <;> [split <;> simp; simp]
@[simp] theorem State.execute_mcs (s : State) (st : Step) :
    (s.execute st).mcs = s.mcs := by unfold State.execute State.startIdle State.startCycle; split <;> [split <;> simp; simp]
@[simp] theorem State.execute_fifo (s : State) (st : Step) :
    (s.execute st).fifo = s.fifo := by unfold State.execute State.startIdle State.startCycle; split <;> [split <;> simp; simp]
@[simp] theorem State.execute_streamPos (s : State) (st : Step) :
    (s.execute st).streamPos = s.streamPos := by unfold State.execute State.startIdle State.startCycle; split <;> [split <;> simp; simp]
@[simp] theorem State.execute_raw (s : State) (st : Step) :
    (s.execute st).raw = s.raw := by unfold State.execute State.startIdle State.startCycle; split <;> [split <;> simp; simp]
@[simp] theorem State.execute_stall (s : State) (st : Step) :
    (s.execute st).stall = s.stall := by unfold State.execute State.startIdle State.startCycle; split <;> [split <;> simp; simp]
@[simp] theorem State.execute_cfg (s : State) (st : Step) :
    (s.execute st).cfg = s.cfg := by unfold State.execute State.startIdle State.startCycle; split <;> [split <;> simp; simp]
@[simp] theorem State.execute_env (s : State) (st : Step) :
    (s.execute st).env = s.env := by unfold State.execute State.startIdle State.startCycle; split <;> [split <;> simp; simp]
@[simp] theorem State.execute_curStep (s : State) (st : Step) :
    (s.execute st).curStep = st := by unfold State.execute State.startIdle State.startCycle; split <;> [split <;> simp; simp]
@[simp] theorem State.execute_dirLine (s : State) (st : Step) :
    (s.execute st).dirLine = .all false := by unfold State.execute State.startIdle State.startCycle; split <;> [split <;> simp; simp]
@[simp] theorem State.execute_stepLine (s : State) (st : Step) :
    (s.execute st).stepLine = .all false := by unfold State.execute State.startIdle State.startCycle; split <;> [split <;> simp; simp]
@[simp] theorem State.execute_draws (s : State) (st : Step) :
    (s.execute st).draws = s.draws + 2 := by unfold State.execute State.startIdle State.startCycle; split <;> [split <;> simp; simp]
@[simp] theorem State.execute_running (s : State) (st : Step) :
    (s.execute st).running = if st.duration = 0 then false else s.running := by
  unfold State.execute State.startIdle State.startCycle; split <;> simp
@[simp] theorem State.execute_trace (s : State) (st : Step) :
    (s.execute st).trace = s.trace ++ [.linesReset, .armed (s.periodOf st)] := by
  unfold State.execute State.startIdle State.startCycle State.periodOf; split <;> [split <;> simp; simp]
@[simp] theorem State.execute_tmr (s : State) (st : Step) :
    (s.execute st).tmr = (s.arm (s.periodOf st)).tmr := by
  unfold State.execute State.startIdle State.startCycle State.periodOf; split <;> [split <;> simp; rfl]
@[simp] theorem State.execute_status (s : State) (st : Step) :
    (s.execute st).status = ⟨s.status.sRange || (st.duration != 0 && (scale s.cfg.rangePolicy s.cfg.timerWidth st.duration st.activeAxes).outOfRange),
      s.status.sShort || s.isShort (s.periodOf st)⟩ := by
  unfold State.execute State.startIdle State.startCycle State.periodOf State.isShort
  by_cases h : st.duration = 0
  · simp only [h, if_true, bne_self_eq_false, Bool.false_and, Bool.or_false]; split <;> simp [State.isShort]
  · simp only [h, if_false, bne_iff_ne.2 h, Bool.true_and]; rfl
@[simp] theorem State.execute_faults (s : State) (st : Step) :
    (s.execute st).faults = if st.duration = 0 ∧ st.pulses = true then (s.raiseFault (.stopStep st)).faults else s.faults := by
  unfold State.execute State.startIdle State.startCycle
  by_cases h : st.duration = 0
  · by_cases hp : st.pulses = true
    · simp only [h, hp, and_self, if_true, State.arm_faults]; show (State.raiseFault { s.resetLines with curStep := st } _).faults = _
      rw [State.raiseFault_faults, State.raiseFault_faults]; rfl
    · rw [if_pos h, if_neg hp, if_neg fun hc => hp hc.2]; rfl
  · simp only [h, false_and, if_false]; rfl

/-! `onDir`. -/

@[simp] theorem State.onDir_pos (s : State) :
    s.onDir.pos = s.pos := forAxes_keeps (·.pos) _ (fun a t => by split <;> simp) s
@[simp] theorem State.onDir_params (s : State) :
    s.onDir.params = s.params := forAxes_keeps (·.params) _ (fun a t => by split <;> simp) s
@[simp] theorem State.onDir_opState (s : State) :
    s.onDir.opState = s.opState := forAxes_keeps (·.opState) _ (fun a t => by split <;> simp) s
@[simp] theorem State.onDir_lastEvent (s : State) :
    s.onDir.lastEvent = s.lastEvent := forAxes_keeps (·.lastEvent) _ (fun a t => by split <;> simp) s
@[simp] theorem State.onDir_curStep (s : State) :
    s.onDir.curStep = s.curStep := forAxes_keeps (·.curStep) _ (fun a t => by split <;> simp) s
@[simp] theorem State.onDir_mcs (s : State) :
    s.onDir.mcs = s.mcs := forAxes_keeps (·.mcs) _ (fun a t => by split <;> simp) s
@[simp] theorem State.onDir_running (s : State) :
    s.onDir.running = s.running := forAxes_keeps (·.running) _ (fun a t => by split <;> simp) s
@[simp] theorem State.onDir_stepLine (s : State) :
    s.onDir.stepLine = s.stepLine := forAxes_keeps (·.stepLine) _ (fun a t => by split <;> simp) s
@[simp] theorem State.onDir_tmr (s : State) :
    s.onDir.tmr = s.tmr := forAxes_keeps (·.tmr) _ (fun a t => by split <;> simp) s
@[simp] theorem State.onDir_status (s : State) :
    s.onDir.status = s.status := forAxes_keeps (·.status) _ (fun a t => by split <;> simp) s
@[simp] theorem State.onDir_faults (s : State) :
    s.onDir.faults = s.faults := forAxes_keeps (·.faults) _ (fun a t => by split <;> simp) s
@[simp] theorem State.onDir_fifo (s : State) :
    s.onDir.fifo = s.fifo := forAxes_keeps (·.fifo) _ (fun a t => by split <;> simp) s
@[simp] theorem State.onDir_streamPos (s : State) :
    s.onDir.streamPos = s.streamPos := forAxes_keeps (·.streamPos) _ (fun a t => by split <;> simp) s
@[simp] theorem State.onDir_raw (s : State) :
    s.onDir.raw = s.raw := forAxes_keeps (·.raw) _ (fun a t => by split <;> simp) s
@[simp] theorem State.onDir_stall (s : State) :
    s.onDir.stall = s.stall := forAxes_keeps (·.stall) _ (fun a t => by split <;> simp) s
@[simp] theorem State.onDir_cfg (s : State) :
    s.onDir.cfg = s.cfg := forAxes_keeps (·.cfg) _ (fun a t => by split <;> simp) s
@[simp] theorem State.onDir_env (s : State) :
    s.onDir.env = s.env := forAxes_keeps (·.env) _ (fun a t => by split <;> simp) s
@[simp] theorem State.onDir_draws (s : State) :
    s.onDir.draws = s.draws := forAxes_keeps (·.draws) _ (fun a t => by split <;> simp) s

/-! `track`. -/

@[simp] theorem State.track_params (s : State) (st : Step) :
    (s.track st).params = s.params := forAxes_keeps (·.params) _ (fun a t => by unfold State.trackAxis; split <;> [(dsimp only; split_ifs <;> simp); rfl]) s
@[simp] theorem State.track_opState (s : State) (st : Step) :
    (s.track st).opState = s.opState := forAxes_keeps (·.opState) _ (fun a t => by unfold State.trackAxis; split <;> [(dsimp only; split_ifs <;> simp); rfl]) s
@[simp] theorem State.track_lastEvent (s : State) (st : Step) :
    (s.track st).lastEvent = s.lastEvent := forAxes_keeps (·.lastEvent) _ (fun a t => by unfold State.trackAxis; split <;> [(dsimp only; split_ifs <;> simp); rfl]) s
@[simp] theorem State.track_curStep (s : State) (st : Step) :
    (s.track st).curStep = s.curStep := forAxes_keeps (·.curStep) _ (fun a t => by unfold State.trackAxis; split <;> [(dsimp only; split_ifs <;> simp); rfl]) s
@[simp] theorem State.track_mcs (s : State) (st : Step) :
    (s.track st).mcs = s.mcs := forAxes_keeps (·.mcs) _ (fun a t => by unfold State.trackAxis; split <;> [(dsimp only; split_ifs <;> simp); rfl]) s
@[simp] theorem State.track_running (s : State) (st : Step) :
    (s.track st).running = s.running := forAxes_keeps (·.running) _ (fun a t => by unfold State.trackAxis; split <;> [(dsimp only; split_ifs <;> simp); rfl]) s
@[simp] theorem State.track_dirLine (s : State) (st : Step) :
    (s.track st).dirLine = s.dirLine := forAxes_keeps (·.dirLine) _ (fun a t => by unfold State.trackAxis; split <;> [(dsimp only; split_ifs <;> simp); rfl]) s
@[simp] theorem State.track_stepLine (s : State) (st : Step) :
    (s.track st).stepLine = s.stepLine := forAxes_keeps (·.stepLine) _ (fun a t => by unfold State.trackAxis; split <;> [(dsimp only; split_ifs <;> simp); rfl]) s
@[simp] theorem State.track_tmr (s : State) (st : Step) :
    (s.track st).tmr = s.tmr := forAxes_keeps (·.tmr) _ (fun a t => by unfold State.trackAxis; split <;> [(dsimp only; split_ifs <;> simp); rfl]) s
@[simp] theorem State.track_status (s : State) (st : Step) :
    (s.track st).status = s.status := forAxes_keeps (·.status) _ (fun a t => by unfold State.trackAxis; split <;> [(dsimp only; split_ifs <;> simp); rfl]) s
@[simp] theorem State.track_fifo (s : State) (st : Step) :
    (s.track st).fifo = s.fifo := forAxes_keeps (·.fifo) _ (fun a t => by unfold State.trackAxis; split <;> [(dsimp only; split_ifs <;> simp); rfl]) s
@[simp] theorem State.track_streamPos (s : State) (st : Step) :
    (s.track st).streamPos = s.streamPos := forAxes_keeps (·.streamPos) _ (fun a t => by unfold State.trackAxis; split <;> [(dsimp only; split_ifs <;> simp); rfl]) s
@[simp] theorem State.track_raw (s : State) (st : Step) :
    (s.track st).raw = s.raw := forAxes_keeps (·.raw) _ (fun a t => by unfold State.trackAxis; split <;> [(dsimp only; split_ifs <;> simp); rfl]) s
@[simp] theorem State.track_stall (s : State) (st : Step) :
    (s.track st).stall = s.stall := forAxes_keeps (·.stall) _ (fun a t => by unfold State.trackAxis; split <;> [(dsimp only; split_ifs <;> simp); rfl]) s
@[simp] theorem State.track_trace (s : State) (st : Step) :
    (s.track st).trace = s.trace := forAxes_keeps (·.trace) _ (fun a t => by unfold State.trackAxis; split <;> [(dsimp only; split_ifs <;> simp); rfl]) s
@[simp] theorem State.track_cfg (s : State) (st : Step) :
    (s.track st).cfg = s.cfg := forAxes_keeps (·.cfg) _ (fun a t => by unfold State.trackAxis; split <;> [(dsimp only; split_ifs <;> simp); rfl]) s
@[simp] theorem State.track_env (s : State) (st : Step) :
    (s.track st).env = s.env := forAxes_keeps (·.env) _ (fun a t => by unfold State.trackAxis; split <;> [(dsimp only; split_ifs <;> simp); rfl]) s
@[simp] theorem State.track_draws (s : State) (st : Step) :
    (s.track st).draws = s.draws := forAxes_keeps (·.draws) _ (fun a t => by unfold State.trackAxis; split <;> [(dsimp only; split_ifs <;> simp); rfl]) s

/-! `onStep`. -/

@[simp] theorem State.onStep_params (s : State) :
    s.onStep.params = s.params := by
  rw [State.onStep, State.track_params]; exact forAxes_keeps (·.params) _ (fun a t => by split <;> simp) s
@[simp] theorem State.onStep_opState (s : State) :
    s.onStep.opState = s.opState := by
  rw [State.onStep, State.track_opState]; exact forAxes_keeps (·.opState) _ (fun a t => by split <;> simp) s
@[simp] theorem State.onStep_lastEvent (s : State) :
    s.onStep.lastEvent = s.lastEvent := by
  rw [State.onStep, State.track_lastEvent]; exact forAxes_keeps (·.lastEvent) _ (fun a t => by split <;> simp) s
@[simp] theorem State.onStep_curStep (s : State) :
    s.onStep.curStep = s.curStep := by
  rw [State.onStep, State.track_curStep]; exact forAxes_keeps (·.curStep) _ (fun a t => by split <;> simp) s
@[simp] theorem State.onStep_mcs (s : State) :
    s.onStep.mcs = s.mcs := by
  rw [State.onStep, State.track_mcs]; exact forAxes_keeps (·.mcs) _ (fun a t => by split <;> simp) s
@[simp] theorem State.onStep_running (s : State) :
    s.onStep.running = s.running := by
  rw [State.onStep, State.track_running]; exact forAxes_keeps (·.running) _ (fun a t => by split <;> simp) s
@[simp] theorem State.onStep_dirLine (s : State) :
    s.onStep.dirLine = s.dirLine := by
  rw [State.onStep, State.track_dirLine]; exact forAxes_keeps (·.dirLine) _ (fun a t => by split <;> simp) s
@[simp] theorem State.onStep_tmr (s : State) :
    s.onStep.tmr = s.tmr := by
  rw [State.onStep, State.track_tmr]; exact forAxes_keeps (·.tmr) _ (fun a t => by split <;> simp) s
@[simp] theorem State.onStep_status (s : State) :
    s.onStep.status = s.status := by
  rw [State.onStep, State.track_status]; exact forAxes_keeps (·.status) _ (fun a t => by split <;> simp) s
@[simp] theorem State.onStep_fifo (s : State) :
    s.onStep.fifo = s.fifo := by
  rw [State.onStep, State.track_fifo]; exact forAxes_keeps (·.fifo) _ (fun a t => by split <;> simp) s
@[simp] theorem State.onStep_streamPos (s : State) :
    s.onStep.streamPos = s.streamPos := by
  rw [State.onStep, State.track_streamPos]; exact forAxes_keeps (·.streamPos) _ (fun a t => by split <;> simp) s
@[simp] theorem State.onStep_raw (s : State) :
    s.onStep.raw = s.raw := by
  rw [State.onStep, State.track_raw]; exact forAxes_keeps (·.raw) _ (fun a t => by split <;> simp) s
@[simp] theorem State.onStep_stall (s : State) :
    s.onStep.stall = s.stall := by
  rw [State.onStep, State.track_stall]; exact forAxes_keeps (·.stall) _ (fun a t => by split <;> simp) s
@[simp] theorem State.onStep_cfg (s : State) :
    s.onStep.cfg = s.cfg := by
  rw [State.onStep, State.track_cfg]; exact forAxes_keeps (·.cfg) _ (fun a t => by split <;> simp) s
@[simp] theorem State.onStep_env (s : State) :
    s.onStep.env = s.env := by
  rw [State.onStep, State.track_env]; exact forAxes_keeps (·.env) _ (fun a t => by split <;> simp) s
@[simp] theorem State.onStep_draws (s : State) :
    s.onStep.draws = s.draws := by
  rw [State.onStep, State.track_draws]; exact forAxes_keeps (·.draws) _ (fun a t => by split <;> simp) s
@[simp] theorem State.onStep_stepLine (s : State) :
    s.onStep.stepLine = (forAxes (fun a t => if t.curStep.step.get a then t.assertStep a else t) s).stepLine := by rw [State.onStep, State.track_stepLine]
@[simp] theorem State.onStep_trace (s : State) :
    s.onStep.trace = (forAxes (fun a t => if t.curStep.step.get a then t.assertStep a else t) s).trace := by rw [State.onStep, State.track_trace]

/-! `manualStep`. -/

@[simp] theorem State.manualStep_pos (s : State) :
    s.manualStep.2.pos = s.pos := by unfold State.manualStep; dsimp only; split <;> simp
@[simp] theorem State.manualStep_params (s : State) :
    s.manualStep.2.params = s.params := by unfold State.manualStep; dsimp only; split <;> simp
@[simp] theorem State.manualStep_opState (s : State) :
    s.manualStep.2.opState = s.opState := by unfold State.manualStep; dsimp only; split <;> simp
@[simp] theorem State.manualStep_lastEvent (s : State) :
    s.manualStep.2.lastEvent = s.lastEvent := by unfold State.manualStep; dsimp only; split <;> simp
@[simp] theorem State.manualStep_curStep (s : State) :
    s.manualStep.2.curStep = s.curStep := by unfold State.manualStep; dsimp only; split <;> simp
@[simp] theorem State.manualStep_running (s : State) :
    s.manualStep.2.running = s.running := by unfold State.manualStep; dsimp only; split <;> simp
@[simp] theorem State.manualStep_dirLine (s : State) :
    s.manualStep.2.dirLine = s.dirLine := by unfold State.manualStep; dsimp only; split <;> simp
@[simp] theorem State.manualStep_stepLine (s : State) :
    s.manualStep.2.stepLine = s.stepLine := by unfold State.manualStep; dsimp only; split <;> simp
@[simp] theorem State.manualStep_tmr (s : State) :
    s.manualStep.2.tmr = s.tmr := by unfold State.manualStep; dsimp only; split <;> simp
@[simp] theorem State.manualStep_faults (s : State) :
    s.manualStep.2.faults = s.faults := by unfold State.manualStep; dsimp only; split <;> simp
@[simp] theorem State.manualStep_fifo (s : State) :
    s.manualStep.2.fifo = s.fifo := by unfold State.manualStep; dsimp only; split <;> simp
@[simp] theorem State.manualStep_streamPos (s : State) :
    s.manualStep.2.streamPos = s.streamPos := by unfold State.manualStep; dsimp only; split <;> simp
@[simp] theorem State.manualStep_raw (s : State) :
    s.manualStep.2.raw = s.raw := by unfold State.manualStep; dsimp only; split <;> simp
@[simp] theorem State.manualStep_stall (s : State) :
    s.manualStep.2.stall = s.stall := by unfold State.manualStep; dsimp only; split <;> simp
@[simp] theorem State.manualStep_trace (s : State) :
    s.manualStep.2.trace = s.trace := by unfold State.manualStep; dsimp only; split <;> simp
@[simp] theorem State.manualStep_cfg (s : State) :
    s.manualStep.2.cfg = s.cfg := by unfold State.manualStep; dsimp only; split <;> simp
@[simp] theorem State.manualStep_env (s : State) :
    s.manualStep.2.env = s.env := by unfold State.manualStep; dsimp only; split <;> simp

/-! `serveDir` and `serveStep`. -/

@[simp] theorem State.serveDir_pos (s : State) :
    s.serveDir.pos = s.pos := by unfold State.serveDir; split <;> simp
@[simp] theorem State.serveDir_params (s : State) :
    s.serveDir.params = s.params := by unfold State.serveDir; split <;> simp
@[simp] theorem State.serveDir_opState (s : State) :
    s.serveDir.opState = s.opState := by unfold State.serveDir; split <;> simp
@[simp] theorem State.serveDir_lastEvent (s : State) :
    s.serveDir.lastEvent = s.lastEvent := by unfold State.serveDir; split <;> simp
@[simp] theorem State.serveDir_curStep (s : State) :
    s.serveDir.curStep = s.curStep := by unfold State.serveDir; split <;> simp
@[simp] theorem State.serveDir_mcs (s : State) :
    s.serveDir.mcs = s.mcs := by unfold State.serveDir; split <;> simp
@[simp] theorem State.serveDir_running (s : State) :
    s.serveDir.running = s.running := by unfold State.serveDir; split <;> simp
@[simp] theorem State.serveDir_stepLine (s : State) :
    s.serveDir.stepLine = s.stepLine := by unfold State.serveDir; split <;> simp
@[simp] theorem State.serveDir_status (s : State) :
    s.serveDir.status = s.status := by unfold State.serveDir; split <;> simp
@[simp] theorem State.serveDir_faults (s : State) :
    s.serveDir.faults = s.faults := by unfold State.serveDir; split <;> simp
@[simp] theorem State.serveDir_fifo (s : State) :
    s.serveDir.fifo = s.fifo := by unfold State.serveDir; split <;> simp
@[simp] theorem State.serveDir_streamPos (s : State) :
    s.serveDir.streamPos = s.streamPos := by unfold State.serveDir; split <;> simp
@[simp] theorem State.serveDir_raw (s : State) :
    s.serveDir.raw = s.raw := by unfold State.serveDir; split <;> simp
@[simp] theorem State.serveDir_stall (s : State) :
    s.serveDir.stall = s.stall := by unfold State.serveDir; split <;> simp
@[simp] theorem State.serveDir_cfg (s : State) :
    s.serveDir.cfg = s.cfg := by unfold State.serveDir; split <;> simp
@[simp] theorem State.serveDir_env (s : State) :
    s.serveDir.env = s.env := by unfold State.serveDir; split <;> simp
@[simp] theorem State.serveDir_draws (s : State) :
    s.serveDir.draws = s.draws := by unfold State.serveDir; split <;> simp
@[simp] theorem State.serveStep_params (s : State) :
    s.serveStep.params = s.params := by unfold State.serveStep; split <;> simp
@[simp] theorem State.serveStep_opState (s : State) :
    s.serveStep.opState = s.opState := by unfold State.serveStep; split <;> simp
@[simp] theorem State.serveStep_lastEvent (s : State) :
    s.serveStep.lastEvent = s.lastEvent := by unfold State.serveStep; split <;> simp
@[simp] theorem State.serveStep_curStep (s : State) :
    s.serveStep.curStep = s.curStep := by unfold State.serveStep; split <;> simp
@[simp] theorem State.serveStep_mcs (s : State) :
    s.serveStep.mcs = s.mcs := by unfold State.serveStep; split <;> simp
@[simp] theorem State.serveStep_running (s : State) :
    s.serveStep.running = s.running := by unfold State.serveStep; split <;> simp
@[simp] theorem State.serveStep_dirLine (s : State) :
    s.serveStep.dirLine = s.dirLine := by unfold State.serveStep; split <;> simp
@[simp] theorem State.serveStep_status (s : State) :
    s.serveStep.status = s.status := by unfold State.serveStep; split <;> simp
@[simp] theorem State.serveStep_fifo (s : State) :
    s.serveStep.fifo = s.fifo := by unfold State.serveStep; split <;> simp
@[simp] theorem State.serveStep_streamPos (s : State) :
    s.serveStep.streamPos = s.streamPos := by unfold State.serveStep; split <;> simp
@[simp] theorem State.serveStep_raw (s : State) :
    s.serveStep.raw = s.raw := by unfold State.serveStep; split <;> simp
@[simp] theorem State.serveStep_stall (s : State) :
    s.serveStep.stall = s.stall := by unfold State.serveStep; split <;> simp
@[simp] theorem State.serveStep_cfg (s : State) :
    s.serveStep.cfg = s.cfg := by unfold State.serveStep; split <;> simp
@[simp] theorem State.serveStep_env (s : State) :
    s.serveStep.env = s.env := by unfold State.serveStep; split <;> simp
@[simp] theorem State.serveStep_draws (s : State) :
    s.serveStep.draws = s.draws := by unfold State.serveStep; split <;> simp

end Sys2Proof.Machine
end

