-- ==== Sys2Proof/Laws/Interpolator.lean ====
section
/-! SUPPORT. The quantities of one call of MANUAL_STEP under the reference arithmetic: each is the real number of
41_step_interpolator's formula, over every configuration of reals. -/

namespace Sys2Proof.Machine

/-- The real number of an expression of this call. -/
noncomputable abbrev State.real (s : State) (a : RealExpr) : ℝ := a.toReal s.rootRad

theorem State.arithmetic_exact {s : State} (h : s.Exact) : s.arithmetic = exactArithmetic s.rootRad := by
  rw [State.arithmetic, show s.cfg.numerics = .exact from h]; rfl

/-! Steps 1 to 3. -/

theorem State.real_rawX {s : State} (h : s.Exact) : s.real (rawDeflection s.arithmetic s.displacement).x = s.refRawX := by
  rw [s.arithmetic_exact h]
  simp [rawDeflection, State.displacement, State.refRawX]

theorem State.real_rawY {s : State} (h : s.Exact) : s.real (rawDeflection s.arithmetic s.displacement).y = s.refRawY := by
  rw [s.arithmetic_exact h]
  simp [rawDeflection, State.displacement, State.refRawY]

theorem State.real_rawM {s : State} (h : s.Exact) : s.real (rawDeflection s.arithmetic s.displacement).m = s.refRawM := by
  have hn : ((s.displacement.x * s.displacement.x + s.displacement.y * s.displacement.y).toNat : ℝ) =
      (s.displacement.x : ℝ) ^ 2 + (s.displacement.y : ℝ) ^ 2 := by
    have h : 0 ≤ s.displacement.x * s.displacement.x + s.displacement.y * s.displacement.y :=
      Int.add_nonneg (mul_self_nonneg _) (mul_self_nonneg _)
    rw [show ((s.displacement.x * s.displacement.x + s.displacement.y * s.displacement.y).toNat : ℝ) =
      (((s.displacement.x * s.displacement.x + s.displacement.y * s.displacement.y).toNat : ℤ) : ℝ) from by norm_cast,
      Int.toNat_of_nonneg h]
    push_cast; ring
  rw [s.arithmetic_exact h]
  unfold State.refRawM
  rw [show s.refRawX ^ 2 + s.refRawY ^ 2 = ((s.displacement.x : ℝ) ^ 2 + (s.displacement.y : ℝ) ^ 2) / 128 ^ 2 by
    simp [State.refRawX, State.refRawY, State.displacement]; ring, Real.sqrt_div' _ (by norm_num),
    Real.sqrt_sq (by norm_num), ← hn]
  show (Arithmetic.min _ _ _).toReal s.rootRad = _
  rw [exact_toReal_min, exact_toReal_magnitude, exact_toReal_int]; norm_num [State.rootRad]

/-- The vector and the magnitude after the deadzone (41_step_interpolator R75 to R77). -/
theorem State.real_deflection {s : State} (h : s.Exact) :
    s.real s.deflection.x = s.refX ∧ s.real s.deflection.y = s.refY ∧ s.real s.deflection.m = s.refM := by
  have hx := s.real_rawX h
  have hy := s.real_rawY h
  have hm := s.real_rawM h
  unfold State.deflection State.refX State.refY State.refM State.refFactor applyDeadzone
  rw [s.arithmetic_exact h] at hx hy hm ⊢
  rw [← hm]
  by_cases hle : s.real (rawDeflection (exactArithmetic s.rootRad) s.displacement).m ≤ s.mcs.deadzone.toReal
  · rw [if_pos ((exact_le_iff _ _ _).2 (by simpa using hle)), if_pos hle]; simp
  · rw [if_neg (mt (exact_le_iff _ _ _).1 (by simpa using hle)), if_neg hle, ← hx, ← hy]; simp

/-! Step 4. -/

theorem State.vector_same_iff {s : State} (h : s.Exact) :
    (s.arithmetic.same (s.deflection.vector s.rootRad).x s.mcs.last.x &&
      s.arithmetic.same (s.deflection.vector s.rootRad).y s.mcs.last.y) = true ↔ ¬ s.RefChanged := by
  obtain ⟨hx, hy, -⟩ := s.real_deflection h
  rw [Bool.and_eq_true, s.arithmetic_exact h, exact_same_iff, exact_same_iff]
  show s.real s.deflection.x = _ ∧ s.real s.deflection.y = _ ↔ _
  rw [hx, hy]
  unfold State.RefChanged
  tauto

/-- The working state after step 4 (41_step_interpolator R78). -/
noncomputable abbrev State.retargeted (s : State) : ManualControlStatus :=
  s.mcs.retarget s.arithmetic (s.deflection.vector s.rootRad)

theorem State.retarget_n {s : State} (h : s.Exact) : s.retargeted.n = s.refCount := by
  unfold State.retargeted ManualControlStatus.retarget State.refCount
  by_cases hc : s.RefChanged
  · rw [if_neg (mt (s.vector_same_iff h).1 (not_not.2 hc)), if_pos hc]
  · rw [if_pos ((s.vector_same_iff h).2 hc), if_neg hc]

/-- The stored vector after step 4 is the vector of the call. -/
theorem State.retarget_last {s : State} (h : s.Exact) :
    s.retargeted.last.x.toReal = s.refX ∧ s.retargeted.last.y.toReal = s.refY := by
  obtain ⟨hx, hy, -⟩ := s.real_deflection h
  unfold State.retargeted ManualControlStatus.retarget
  split
  · next hs =>
    have := (s.vector_same_iff h).1 hs
    unfold State.RefChanged at this
    push Not at this
    exact ⟨this.1.symm, this.2.symm⟩
  · exact ⟨hx, hy⟩

/-- Step 4 writes the counter and the vector alone, and restarts the counter or keeps it, whatever the arithmetic. -/
theorem ManualControlStatus.retarget_cases (ar : Arithmetic) (c : ManualControlStatus) (v : PerChannel Number) :
    c.retarget ar v = c ∨ c.retarget ar v = { c with n := 0, last := v } := by
  unfold ManualControlStatus.retarget; split <;> [exact .inl rfl; exact .inr rfl]

/-! Step 5. -/

theorem State.retarget_feeds (s : State) : s.retargeted.minFeed = s.mcs.minFeed ∧ s.retargeted.maxFeed = s.mcs.maxFeed := by
  rcases s.mcs.retarget_cases s.arithmetic (s.deflection.vector s.rootRad) with e | e <;> rw [State.retargeted, e] <;>
    exact ⟨rfl, rfl⟩

/-- The feed per second (41_step_interpolator R79). -/
theorem State.real_feed {s : State} (h : s.Exact) : s.real (feedPerSec s.arithmetic s.retargeted s.deflection.m) =
    (s.mcs.minFeed.toReal + s.refM * (s.mcs.maxFeed.toReal - s.mcs.minFeed.toReal)) / 60 := by
  unfold feedPerSec
  rw [s.arithmetic_exact h, s.retarget_feeds.1, s.retarget_feeds.2, ← (s.real_deflection h).2.2]
  simp

/-- Where neither divisor is 0, `to_u16` is given the floor of the real quotient (41_step_interpolator R79). -/
theorem State.durationFloor_eq {s : State} (h : s.Exact) (hp : s.params.stepsPerMm.toReal ≠ 0)
    (hf : (s.mcs.minFeed.toReal + s.refM * (s.mcs.maxFeed.toReal - s.mcs.minFeed.toReal)) / 60 ≠ 0) :
    durationFloor s.arithmetic s.params (feedPerSec s.arithmetic s.retargeted s.deflection.m) = some ⌊s.refQuotient⌋ := by
  have hr := s.real_feed h
  unfold durationFloor
  rw [s.arithmetic_exact h] at hr ⊢
  rcases exact_quotient_cases s.rootRad s.params.clockFreq.expr
    (feedPerSec (exactArithmetic s.rootRad) s.retargeted s.deflection.m) s.params.stepsPerMm.expr with
    ⟨z, -⟩ | ⟨-, -, q, e, hq⟩
  · rcases z with z | z
    · exact absurd (hr.symm.trans z) hf
    · exact absurd (by simpa using z) hp
  · change s.real _ = _ at hr
    rw [e, Option.map_some, exact_floor_eq, hq]
    unfold State.refQuotient
    rw [← hr]; simp

/-! The call. -/

theorem State.isZero_iff {s : State} (h : s.Exact) : s.arithmetic.isZero s.deflection.m = true ↔ s.refM = 0 := by
  rw [s.arithmetic_exact h, exact_isZero_iff, ← (s.real_deflection h).2.2]

/-- A call with magnitude 0 (41_step_interpolator R84). -/
theorem State.manualStep_rest {s : State} (hx : s.Exact) (h : s.refM = 0) :
    s.manualStep = (.zero, { s with mcs := s.retargeted }) := by
  unfold State.manualStep; rw [if_pos ((s.isZero_iff hx).2 h)]

/-- The duration of a call with a magnitude, before it is a Step's (41_step_interpolator R79, R80). -/
noncomputable def State.manualTicks (s : State) : Narrowed :=
  toTicks s.cfg.rangePolicy (Config.freeTicks s.draws)
    (durationFloor s.arithmetic s.params (feedPerSec s.arithmetic s.retargeted s.deflection.m))

/-- A call with a magnitude (41_step_interpolator R79 to R83). -/
theorem State.manualStep_moving {s : State} (hx : s.Exact) (h : s.refM ≠ 0) :
    let c := s.retargeted.advance s.arithmetic s.rootRad (s.deflection.slope s.arithmetic)
      (nextCount s.cfg.counterWidth s.retargeted.n)
    s.manualStep = (manualStepOf s.arithmetic s.deflection (BitVec.ofNat 16 s.manualTicks.value)
        (c.minorSteps s.arithmetic),
      { s.noteRange s.manualTicks.outOfRange with mcs := c, draws := s.draws + 1 }) := by
  unfold State.manualStep
  dsimp only
  rw [if_neg (mt (s.isZero_iff hx).1 h)]
  rfl

theorem State.xMajor_iff {s : State} (h : s.Exact) : s.deflection.xMajor s.arithmetic = true ↔ |s.refY| ≤ |s.refX| := by
  obtain ⟨hx, hy, -⟩ := s.real_deflection h
  rw [Deflection.xMajor, s.arithmetic_exact h, exact_le_iff, exact_toReal_abs, exact_toReal_abs, ← hx, ← hy]

theorem State.real_slope {s : State} (h : s.Exact) : s.real (s.deflection.slope s.arithmetic) = s.refSlope := by
  obtain ⟨hx, hy, -⟩ := s.real_deflection h
  unfold Deflection.slope State.refSlope
  by_cases hm : |s.refY| ≤ |s.refX|
  · rw [if_pos ((s.xMajor_iff h).2 hm), if_pos hm, s.arithmetic_exact h, State.real, exact_toReal_div, exact_toReal_abs,
      exact_toReal_abs, ← hx, ← hy]
  · rw [if_neg (mt (s.xMajor_iff h).1 hm), if_neg hm, s.arithmetic_exact h, State.real, exact_toReal_div, exact_toReal_abs,
      exact_toReal_abs, ← hx, ← hy]

/-- Where the counter can hold it, the counter is one higher. -/
theorem State.nextCount_eq {s : State} {n : Nat} (h : s.Counts (n + 1)) : nextCount s.cfg.counterWidth n = n + 1 := by
  unfold nextCount
  split
  · rfl
  · next w hw => exact Nat.mod_eq_of_lt (h w hw)

/-- The counter fits its width after the call (00_scope R9, COUNTER_WIDTH). -/
theorem nextCount_lt (w n : Nat) : nextCount (some w) n < 2 ^ w := Nat.mod_lt _ (Nat.two_pow_pos w)

/-- MANUAL_STEP keeps the counter within its width, whatever the arithmetic. -/
theorem State.manualStep_counterFits {s : State} (h : ∀ w, s.cfg.counterWidth = some w → s.mcs.n < 2 ^ w) (w : Nat)
    (hw : s.cfg.counterWidth = some w) : s.manualStep.2.mcs.n < 2 ^ w := by
  unfold State.manualStep
  dsimp only
  split
  · rcases s.mcs.retarget_cases s.arithmetic (s.deflection.vector s.rootRad) with e | e <;> rw [e]
    · exact h w hw
    · exact Nat.two_pow_pos w
  · rw [hw]; exact nextCount_lt w _

end Sys2Proof.Machine
end

