-- ==== Sys2Proof/Laws/Sequencer.lean ====
section
/-! SUPPORT. What each shared operation can do, said once: the fetch, the dispatch, the handler, the timer and a step of the
machine; and the one induction over the cases of a step. -/

namespace Sys2Proof

/-! The record forms. -/

@[simp] theorem Step.toInstr_toStep (s : Step) : s.toInstr.toStep = s := by
  unfold Step.toInstr; split <;> [(next h => cases s; simp_all [Instr.toStep]); rfl]

theorem Step.toInstr_wf (s : Step) : s.toInstr.wf = true := by
  unfold Step.toInstr; split <;> simp_all [Instr.wf]

theorem Instr.toStep_toInstr (i : Instr) (h : i.wf = true) : i.toStep.toInstr = i := by
  cases i <;> simp_all [Instr.toStep, Step.toInstr, Instr.wf]

@[simp] theorem decodeRecord_toStep (l : FlagLayout) (b0 b1 b2 : Byte) :
    (decodeRecord l b0 b1 b2).toStep = decodeStep l b0 b1 b2 := Step.toInstr_toStep _

namespace Machine

/-! The meaning of a record. -/

/-- A record's meaning is `running ← 1` and the execution of its Step. -/
theorem exec_eq (i : Instr) (s : State) : exec i s = .next ({ s with running := true }.execute i.toStep) := by
  cases i <;> rfl

/-! The tick counts. -/

/-- A narrowed tick count fits its width (41_step_interpolator R80, 42_dispatch_executor R99). -/
theorem narrow_lt (p : RangePolicy) (w v : Nat) : (narrow p w v).value < 2 ^ w := by
  have := Nat.two_pow_pos w
  unfold narrow
  split
  · assumption
  · cases p
    · exact Nat.mod_lt _ this
    · exact Nat.sub_lt this one_pos

/-- A timed Step's period fits the reload register (42_dispatch_executor R99). -/
theorem periodOf_lt (s : State) {st : Step} (h : st.duration ≠ 0) : s.periodOf st < 2 ^ s.cfg.timerWidth := by
  rw [State.periodOf, if_neg h]; exact narrow_lt _ _ _

/-! The fetch. -/

theorem popRecord_cons {s : State} {b0 b1 b2 : Byte} {rest : List Byte} (h : s.fifo = b0 :: b1 :: b2 :: rest) :
    s.popRecord = some (decodeRecord s.cfg.flagLayout b0 b1 b2,
      { s with fifo := rest, streamPos := s.streamPos + 3 }) := by
  simp [State.popRecord, h, decode]

theorem popRecord_cases (s : State) :
    (∃ b0 b1 b2 rest, s.fifo = b0 :: b1 :: b2 :: rest ∧ s.popRecord =
      some (decodeRecord s.cfg.flagLayout b0 b1 b2, { s with fifo := rest, streamPos := s.streamPos + 3 })) ∨
    (s.fifo.length < 3 ∧ s.popRecord = none) := by
  rcases h : s.fifo with _ | ⟨b0, _ | ⟨b1, _ | ⟨b2, rest⟩⟩⟩
  case cons.cons.cons => exact .inl ⟨b0, b1, b2, rest, rfl, popRecord_cons h⟩
  all_goals exact .inr ⟨by simp, by simp [State.popRecord, h, decode]⟩

/-! Dispatch (42_dispatch_executor R94). -/

/-- Everything a dispatch can do. -/
theorem dispatch_cases (s : State) (ctx : Context) :
    (s.opState = .manualControl ∧ s.dispatch ctx =
      .next ({ s with running := true }.manualStep.2.execute { s with running := true }.manualStep.1)) ∨
    (s.opState = .runningProgram ∧ ∃ b0 b1 b2 rest, s.fifo = b0 :: b1 :: b2 :: rest ∧ s.dispatch ctx =
      .next ({ s with running := true, fifo := rest, streamPos := s.streamPos + 3 }.execute
        (decodeStep s.cfg.flagLayout b0 b1 b2))) ∨
    (s.opState = .runningProgram ∧ s.fifo.length < 3 ∧ s.dispatch ctx =
      .next { s with running := true, stall := some ctx }) ∨
    (s.opState = .ready ∧ s.dispatch ctx = .next { s with running := false }) := by
  unfold State.dispatch
  split
  · next h => exact .inl ⟨h, rfl⟩
  · next h =>
    rcases popRecord_cases { s with running := true } with ⟨b0, b1, b2, rest, hf, hp⟩ | ⟨hf, hp⟩
    · exact .inr (.inl ⟨h, b0, b1, b2, rest, hf, by simp [hp, exec_eq]⟩)
    · exact .inr (.inr (.inl ⟨h, hf, by simp [hp]⟩))
  · next h => exact .inr (.inr (.inr ⟨h, rfl⟩))

/-- Everything a resume can do where CORE has it enabled (43_pulse_sequencer R113). -/
theorem resume_eq {s : State} (h : 3 ≤ s.fifo.length) :
    ∃ b0 b1 b2 rest, s.fifo = b0 :: b1 :: b2 :: rest ∧ s.resume =
      .next ({ s with stall := none, running := true, fifo := rest, streamPos := s.streamPos + 3 }.execute
        (decodeStep s.cfg.flagLayout b0 b1 b2)) := by
  rcases popRecord_cases { s with stall := none } with ⟨b0, b1, b2, rest, hf, hp⟩ | ⟨hf, _⟩
  · exact ⟨b0, b1, b2, rest, hf, by simp [State.resume, hp, exec_eq]⟩
  · simp only at hf; omega

/-! The handler (43_pulse_sequencer R108). -/

/-- Everything one handler invocation can do. -/
theorem handler_cases (s : State) :
    (s.serveDir.serveStep.tmr.updPend = false ∧ s.handler = .next s.serveDir.serveStep) ∨
    (s.serveDir.serveStep.tmr.updPend = true ∧ s.handler =
      { s.serveDir.serveStep with tmr := { s.serveDir.serveStep.tmr with updPend := false }, running := false }.dispatch
        .isr) := by
  unfold State.handler State.serveUpdate State.onUpdate
  by_cases h : s.serveDir.serveStep.tmr.updPend <;> simp [h]

@[simp] theorem State.serveDir_tmr (s : State) : s.serveDir.tmr = { s.tmr with dirPend := false } := by
  unfold State.serveDir; cases s with | mk => rename_i tmr _ _ _ _ _ _ _ _ _ _; cases tmr; dsimp only; split <;> simp_all

@[simp] theorem State.serveStep_tmr (s : State) : s.serveStep.tmr = { s.tmr with stepPend := false } := by
  unfold State.serveStep; cases s with | mk => rename_i tmr _ _ _ _ _ _ _ _ _ _; cases tmr; dsimp only; split <;> simp_all

/-- With no direction latch set, serving it does nothing. -/
theorem serveDir_of_clear {s : State} (h : s.tmr.dirPend = false) : s.serveDir = s := by
  simp [State.serveDir, h]

/-- With no step latch set, serving it does nothing. -/
theorem serveStep_of_clear {s : State} (h : s.tmr.stepPend = false) : s.serveStep = s := by
  simp [State.serveStep, h]

/-- An invocation that finds the direction latch alone. -/
theorem handler_dir_only {s : State} (hd : s.tmr.dirPend = true) (hs : s.tmr.stepPend = false)
    (hu : s.tmr.updPend = false) : s.handler = .next { s with tmr := { s.tmr with dirPend := false } }.onDir := by
  have ht := State.serveDir_tmr s
  have h1 : s.serveDir.tmr.stepPend = false := by rw [ht]; exact hs
  have h2 : s.serveDir.tmr.updPend = false := by rw [ht]; exact hu
  rw [State.handler, serveStep_of_clear h1, State.serveUpdate, h2]
  simp [State.serveDir, hd]

/-- An invocation that finds the step latch alone. -/
theorem handler_step_only {s : State} (hd : s.tmr.dirPend = false) (hs : s.tmr.stepPend = true)
    (hu : s.tmr.updPend = false) : s.handler = .next { s with tmr := { s.tmr with stepPend := false } }.onStep := by
  have h2 : s.serveStep.tmr.updPend = false := by rw [State.serveStep_tmr]; exact hu
  rw [State.handler, serveDir_of_clear hd, State.serveUpdate, h2]
  simp [State.serveStep, hs]

/-- An invocation that finds the update latch alone. -/
theorem handler_update_only {s : State} (hd : s.tmr.dirPend = false) (hs : s.tmr.stepPend = false)
    (hu : s.tmr.updPend = true) :
    s.handler = { s with tmr := { s.tmr with updPend := false }, running := false }.dispatch .isr := by
  rw [State.handler, serveDir_of_clear hd, serveStep_of_clear hs, State.serveUpdate, hu]; rfl

/-- CORE's turn with a latch set is a handler invocation. -/
theorem coreStep_of_latched {s : State} (h : s.stall = none) (hl : s.latched = true) : s.coreStep = some s.handler := by
  simp [State.coreStep, h, hl]

/-- CORE's turn with nothing to serve. -/
theorem coreStep_of_clear {s : State} (h : s.stall = none) (hl : s.latched = false) : s.coreStep = none := by
  simp [State.coreStep, h, hl]

/-! The timer (43_pulse_sequencer R104 to R107). -/

/-- Everything a step of the timer can do. -/
theorem timerStep_cases {s t : State} (h : s.timerStep = some t) :
    s.tmr.armed = true ∧
    ((s.tmr.phase = .dir ∧
        t = { s with tmr := { s.tmr with dirPend := s.tmr.dirPend || s.tmr.fireDir, phase := .step } }) ∨
      (s.tmr.phase = .step ∧
        t = { s with tmr := { s.tmr with stepPend := s.tmr.stepPend || s.tmr.fireStep, phase := .upd } }) ∨
      (s.tmr.phase = .upd ∧ t = { s with tmr := { s.tmr with updPend := true, armed := false, phase := .done } })) := by
  unfold State.timerStep at h
  split at h <;> [skip; cases h]
  next ha => split at h <;> simp_all

/-! A step of the machine. -/

theorem step_cons {s : State} {m : Move} {rest : List Move} (h : s.env = m :: rest) :
    step s = { s with env := rest }.perform m := by simp [step, h]

theorem step_nil {s : State} (h : s.env = []) : step s = s.runAlone := by simp [step, h]

/-- Everything a step can do: the next scheduled move is taken off (`e` is what is left), and the turn passes, or the timer, CORE
(a handler invocation or the resume of a held dispatch), the host or the converter makes a step. -/
theorem step_cases {s t : State} (h : step s = .next t) :
    ∃ e : List Move, (s.env = [] ∧ e = [] ∨ ∃ m, s.env = m :: e) ∧
      (t = { s with env := e } ∨
        State.timerStep { s with env := e } = some t ∨
        (s.stall = none ∧ s.latched = true ∧ State.handler { s with env := e } = .next t) ∨
        (s.stall ≠ none ∧ 3 ≤ s.fifo.length ∧ State.resume { s with env := e } = .next t) ∨
        (∃ op, s.env = .host op :: e ∧ State.hostStep { s with env := e } op = .next t) ∨
        (∃ ch b, s.env = .adc ch b :: e ∧ t = State.adcSample { s with env := e } ch b)) := by
  have timer : ∀ u v : State, u.timerStep.getD u = v → v = u ∨ u.timerStep = some v := by
    intro u v hv; cases ht : u.timerStep <;> simp_all
  have core : ∀ u w v : State, u.coreStep.getD (.next w) = .next v → v = w ∨
      (u.stall = none ∧ u.latched = true ∧ u.handler = .next v) ∨
      (u.stall ≠ none ∧ 3 ≤ u.fifo.length ∧ u.resume = .next v) := by
    intro u w v hv
    unfold State.coreStep at hv
    split at hv <;> split at hv <;> simp_all
  unfold step at h
  split at h
  · next m e he =>
    refine ⟨e, .inr ⟨m, he⟩, ?_⟩
    cases m with
    | core =>
      rcases core _ _ t h with h | h | h
      · exact .inl h
      · exact .inr (.inr (.inl h))
      · exact .inr (.inr (.inr (.inl h)))
    | timer => exact (timer _ t (by simpa [State.perform] using h)).imp_right .inl
    | host op => exact .inr (.inr (.inr (.inr (.inl ⟨op, he, h⟩))))
    | adc ch v => exact .inr (.inr (.inr (.inr (.inr ⟨ch, v, he, by simpa [State.perform, eq_comm] using h⟩))))
  · next he =>
    refine ⟨[], .inl ⟨he, rfl⟩, ?_⟩
    rw [show ({ s with env := [] } : State) = s by rw [← he]]
    rcases core _ _ t h with h | h | h
    · exact (timer _ t h.symm).imp_right .inl
    · exact .inr (.inr (.inl h))
    · exact .inr (.inr (.inr (.inl h)))

/-- What holds before a step and after the removal of a scheduled move, and is kept by each agent's move, holds after the step. -/
theorem step_induction {P : State → Prop} {s t : State} (h : step s = .next t)
    (hEnv : ∀ e, P { s with env := e })
    (hTimer : ∀ u v, P u → u.timerStep = some v → P v)
    (hHandler : ∀ u v, P u → u.stall = none → u.latched = true → u.handler = .next v → P v)
    (hResume : ∀ u v, P u → u.stall ≠ none → 3 ≤ u.fifo.length → u.resume = .next v → P v)
    (hHost : ∀ op rest v, s.env = .host op :: rest → State.hostStep { s with env := rest } op = .next v → P v)
    (hAdc : ∀ ch b rest, s.env = .adc ch b :: rest → P (State.adcSample { s with env := rest } ch b)) : P t := by
  obtain ⟨e, -, rfl | h | ⟨h1, h2, h⟩ | ⟨h1, h2, h⟩ | ⟨op, he, h⟩ | ⟨ch, b, he, rfl⟩⟩ := step_cases h
  · exact hEnv e
  · exact hTimer _ _ (hEnv e) h
  · exact hHandler _ _ (hEnv e) h1 h2 h
  · exact hResume _ _ (hEnv e) h1 h2 h
  · exact hHost op e t he h
  · exact hAdc ch b e he

/-! The events in closed form. -/

/-- DIR_EVENT: which lines rise (43_pulse_sequencer R109). -/
theorem onDir_dirLine (s : State) (a : Axis) :
    s.onDir.dirLine.get a = (s.dirLine.get a || (s.curStep.dir.get a != s.cfg.dirPolarity.get a)) := by
  simp only [State.onDir, forAxes, apply_ite State.dirLine, apply_ite State.curStep, apply_ite State.cfg,
    State.assertDir_dirLine, State.assertDir_curStep, State.assertDir_cfg, ite_self]
  cases hx : (s.curStep.dir.get .x != s.cfg.dirPolarity.get .x) <;>
    cases hy : (s.curStep.dir.get .y != s.cfg.dirPolarity.get .y) <;>
    cases hz : (s.curStep.dir.get .z != s.cfg.dirPolarity.get .z) <;>
    cases a <;> simp only [hx, hy, hz] <;> simp [PerAxis.set, PerAxis.get]

/-- STEP_EVENT: which lines rise (43_pulse_sequencer R110). -/
theorem onStep_stepLine_get (s : State) (a : Axis) :
    s.onStep.stepLine.get a = (s.stepLine.get a || s.curStep.step.get a) := by
  simp only [State.onStep_stepLine, forAxes, apply_ite State.stepLine, apply_ite State.curStep,
    State.assertStep_stepLine, State.assertStep_curStep, ite_self]
  cases hx : s.curStep.step.get .x <;> cases hy : s.curStep.step.get .y <;> cases hz : s.curStep.step.get .z <;>
    cases a <;> simp only [hx, hy, hz] <;> simp [PerAxis.set, PerAxis.get]

/-- A two's-complement number fits its width (00_scope R11). -/
theorem fitsSigned_wrapSigned (w : Nat) (v : Int) : fitsSigned w (wrapSigned w v) = true := by
  unfold fitsSigned wrapSigned
  rw [decide_eq_true_iff]
  have h1 := Int.le_bmod (x := v) (m := 2 ^ w) (Nat.two_pow_pos w)
  have h2 := Int.bmod_lt (x := v) (m := 2 ^ w) (Nat.two_pow_pos w)
  rcases w with _ | w
  · norm_num at h1 h2 ⊢
  · rw [pow_succ] at h1 h2 ⊢
    push_cast at h1 h2
    simp only [Nat.add_sub_cancel]
    omega

/-- Position 0 fits every width. -/
theorem fitsSigned_zero (w : Nat) : fitsSigned w 0 = true := by
  have : (0 : Int) < 2 ^ (w - 1) := by positivity
  simp only [fitsSigned, decide_eq_true_eq]; omega

/-- A number that fits is not changed. -/
theorem wrapSigned_of_fits {w : Nat} {v : Int} (hw : 0 < w) (h : fitsSigned w v = true) : wrapSigned w v = v := by
  obtain ⟨w, rfl⟩ : ∃ k, w = k + 1 := ⟨w - 1, by omega⟩
  unfold fitsSigned at h
  rw [decide_eq_true_iff] at h
  unfold wrapSigned
  simp only [Nat.add_sub_cancel] at h
  have h2 : ((2 : Nat) ^ (w + 1) : Nat) = 2 * 2 ^ w := by rw [pow_succ]; ring
  have hc : ((2 ^ w : Nat) : Int) = 2 ^ w := by push_cast; rfl
  refine Int.bmod_eq_of_le ?_ ?_ <;> rw [h2] <;> push_cast <;> omega

/-- TRACK of one axis: that component (43_pulse_sequencer R111). -/
theorem trackAxis_pos (st : Step) (a : Axis) (s : State) :
    (State.trackAxis st a s).pos =
      if st.step.get a then s.pos.set a (wrapSigned s.cfg.posWidth (s.pos.get a + if st.dir.get a then 1 else -1))
      else s.pos := by
  unfold State.trackAxis
  split
  · simp only [apply_ite State.pos, State.raiseFault_pos, ite_self]
  · rfl

@[simp] theorem trackAxis_cfg (st : Step) (a : Axis) (s : State) : (State.trackAxis st a s).cfg = s.cfg := by
  unfold State.trackAxis; dsimp only; split_ifs <;> simp

theorem pos_get_set (p : PerAxis Coord) (a b : Axis) (v : Coord) :
    (p.set a v).get b = if a = b then v else p.get b := by
  cases a <;> cases b <;> simp [PerAxis.set, PerAxis.get]

/-- TRACK: every component (43_pulse_sequencer R111). -/
theorem track_pos (s : State) (st : Step) (a : Axis) :
    (s.track st).pos.get a =
      if st.step.get a then wrapSigned s.cfg.posWidth (s.pos.get a + if st.dir.get a then 1 else -1) else s.pos.get a := by
  unfold State.track forAxes
  cases a <;> simp only [trackAxis_pos, trackAxis_cfg] <;> split_ifs <;> simp_all [pos_get_set]

/-- TRACK keeps every component within its width (43_pulse_sequencer R111). -/
theorem track_fits {s : State} (h : ∀ a, fitsSigned s.cfg.posWidth (s.pos.get a) = true) (st : Step) (a : Axis) :
    fitsSigned s.cfg.posWidth ((s.track st).pos.get a) = true := by
  rw [track_pos]; split <;> [exact fitsSigned_wrapSigned _ _; exact h a]

/-- DIR_EVENT: the trace (43_pulse_sequencer R109). -/
theorem onDir_trace (s : State) : s.onDir.trace = s.trace ++
    ([Axis.x, .y, .z].filter fun a => s.curStep.dir.get a != s.cfg.dirPolarity.get a).map .dirAsserted := by
  simp only [State.onDir, forAxes, apply_ite State.trace, apply_ite State.curStep, apply_ite State.cfg,
    State.assertDir_trace, State.assertDir_curStep, State.assertDir_cfg, ite_self]
  cases hx : (s.curStep.dir.get .x != s.cfg.dirPolarity.get .x) <;>
    cases hy : (s.curStep.dir.get .y != s.cfg.dirPolarity.get .y) <;>
    cases hz : (s.curStep.dir.get .z != s.cfg.dirPolarity.get .z) <;>
    simp only [hx, hy, hz, List.filter_cons] <;> simp

/-- STEP_EVENT: the trace (43_pulse_sequencer R110). -/
theorem onStep_trace_eq (s : State) : s.onStep.trace = s.trace ++
    ([Axis.x, .y, .z].filter fun a => s.curStep.step.get a).map .stepAsserted := by
  simp only [State.onStep_trace, forAxes, apply_ite State.trace, apply_ite State.curStep,
    State.assertStep_trace, State.assertStep_curStep, ite_self]
  cases hx : s.curStep.step.get .x <;> cases hy : s.curStep.step.get .y <;> cases hz : s.curStep.step.get .z <;>
    simp only [hx, hy, hz, List.filter_cons] <;> simp

/-- STEP_EVENT: the position is the Position Tracker's (43_pulse_sequencer R110). -/
theorem onStep_pos (s : State) : s.onStep.pos = (s.track s.curStep).pos := by
  have h : ∀ (a b : State) (st : Step), a.pos = b.pos → a.cfg = b.cfg → (a.track st).pos = (b.track st).pos := by
    intro a b st h hc; unfold State.track forAxes; simp only [trackAxis_pos, trackAxis_cfg, h, hc]
  exact h _ _ _ (forAxes_keeps (·.pos) _ (fun a t => by split <;> simp) s)
    (forAxes_keeps (·.cfg) _ (fun a t => by split <;> simp) s)

/-- Serving the direction latch: which lines are high after it. -/
theorem serveDir_dirLine_get (s : State) (a : Axis) : s.serveDir.dirLine.get a =
    (s.dirLine.get a || (s.tmr.dirPend && (s.curStep.dir.get a != s.cfg.dirPolarity.get a))) := by
  unfold State.serveDir; split
  · next h => rw [onDir_dirLine]; simp [h]
  · next h => simp [h]

/-- Serving the step latch: which lines are high after it. -/
theorem serveStep_stepLine_get (s : State) (a : Axis) :
    s.serveStep.stepLine.get a = (s.stepLine.get a || (s.tmr.stepPend && s.curStep.step.get a)) := by
  unfold State.serveStep; split
  · next h => rw [onStep_stepLine_get]; simp [h]
  · next h => simp [h]

/-- The faults in the set after one is recorded (60_exceptions R133). -/
theorem mem_raiseFault (s : State) (f g : FaultRecord) : g ∈ (s.raiseFault f).faults ↔ g ∈ s.faults ∨ g = f := by
  unfold State.raiseFault; split <;> simp; rintro rfl; assumption

/-- A set of faults stays one without repeats. -/
theorem nodup_raiseFault {s : State} {f : FaultRecord} (h : s.faults.Nodup) : (s.raiseFault f).faults.Nodup := by
  rw [State.raiseFault_faults]; split
  · exact h
  · next hn =>
    rw [List.nodup_append]
    refine ⟨h, by simp, fun a ha b hb => ?_⟩
    simp only [List.mem_singleton] at hb; subst hb; rintro rfl; exact hn ha

/-- TRACK of one axis: the faults (43_pulse_sequencer R111). -/
theorem trackAxis_faults (st : Step) (a : Axis) (s : State) : (State.trackAxis st a s).faults =
    if st.step.get a = true ∧ fitsSigned s.cfg.posWidth (s.pos.get a + if st.dir.get a then 1 else -1) = false
    then (s.raiseFault (.posOverflow a)).faults else s.faults := by
  unfold State.trackAxis
  dsimp only
  generalize s.pos.get a + (if st.dir.get a = true then 1 else -1) = v
  cases st.step.get a <;> cases fitsSigned s.cfg.posWidth v <;> simp

/-- TRACK of one axis: the faults in the set after it (43_pulse_sequencer R111). -/
theorem mem_trackAxis_faults (st : Step) (a : Axis) (s : State) (f : FaultRecord) :
    f ∈ (State.trackAxis st a s).faults ↔ f ∈ s.faults ∨ (f = .posOverflow a ∧ st.step.get a = true ∧
      fitsSigned s.cfg.posWidth (s.pos.get a + if st.dir.get a then 1 else -1) = false) := by
  rw [trackAxis_faults]
  generalize s.pos.get a + (if st.dir.get a = true then 1 else -1) = v
  split
  · next h => rw [mem_raiseFault]; simp [h]
  · next h => simp [h]

end Machine
end Sys2Proof
end

