-- ==== Sys2Proof/Laws/PerInstr.lean ====
section
/-! SUPPORT. What holds of each record as syntax, one lemma per constructor. -/

namespace Sys2Proof.Laws.RecordForm

/-- A record's encoding is three bytes long under every layout (30_encoding R65), its Step's duration is 0 exactly for STOP,
and a well-formed record is the form its Step's duration selects (30_encoding R62). -/
def Statement (i : Instr) : Prop :=
  (∀ l : FlagLayout, (encode l i).length = 3) ∧
  (i.wf = true → ((∃ dirs steps, i = .stop dirs steps) ↔ i.toStep.duration = 0)) ∧
  (i.wf = true → i.toStep.toInstr = i)

theorem stop (dirs steps : PerAxis Bool) : Statement (.stop dirs steps) :=
  ⟨fun _ => rfl, fun _ => by simp [Instr.toStep], Instr.toStep_toInstr _⟩

theorem step (duration : Ticks) (dirs steps : PerAxis Bool) : Statement (.step duration dirs steps) :=
  ⟨fun _ => rfl, fun h => by simp_all [Instr.toStep, Instr.wf], Instr.toStep_toInstr _⟩

end Sys2Proof.Laws.RecordForm
end

