-- ==== Sys2Proof/Tests/Slice0.lean ====
section
/-! SUPPORT. Tests, each from the words, worked examples and vectors of spec/ (95_test_vectors unless a rule is named), and for
every statement that has hypotheses a witness that meets them, at the boundary values of its clauses. -/

namespace Sys2Proof.Tests

open Sys2Proof.Machine

/-! The test configuration K0 (95_test_vectors section 0). -/

/-- K0 with a clock frequency and a polarity. -/
def k0Args (clock : Rat) (polarity : PerAxis Bool) : ModelArgs where
  params := ⟨.rat clock, .rat 200, .rat 0, .rat 0⟩
  deadzone := .rat (1 / 10)
  minFeed := .rat 60
  maxFeed := .rat 600
  cmpDir := 10
  cmpStep := 20
  zeroInit := ⟨128, 128⟩
  raw := ⟨128, 128⟩
  cfg := ⟨polarity, 10000, .default, .wrap, .exact, 32, 16, none, none⟩

/-- The state after reset under K0. -/
def k0 : State := State.resetWith (k0Args 1000000 (.all false))

/-- K0 with the joystick at a position. -/
def k0At (x y : Byte) : State := { k0 with raw := ⟨x, y⟩ }

/-- K0 in program mode with bytes queued and moves scheduled. -/
def k0Program (bytes : List Byte) (moves : List Move) : State :=
  { k0 with opState := .runningProgram, fifo := bytes, env := moves }

/-- K0 with a period of a Step in flight, as the executor leaves it. -/
def k0Period (st : Step) (reload : Nat) : State :=
  { k0 with
    running := true, curStep := st
    tmr := { k0.tmr with reload := reload, onePulse := true, armed := true, phase := .dir, fireDir := true, fireStep := true } }

/-- A Step from its duration and, per axis, direction and step flag. -/
def mk (d : Ticks) (xd xs yd ys zd zs : Bool) : Step := ⟨d, ⟨xd, yd, zd⟩, ⟨xs, ys, zs⟩⟩

/-- The state an outcome goes on in. -/
def after : Host.Outcome State Fault Refusal → Option State
  | .next t => some t
  | .fault _ => none
  | .refused _ => none

/-- One field of the state an outcome goes on in. -/
def field {α : Type} (f : State → α) (o : Host.Outcome State Fault Refusal) : Option α := (after o).map f

/-! Well-formedness. -/

/-- 30_encoding R62: a record of duration 0 is STOP, so a STEP of duration 0 is ill formed. -/
theorem test_wf_refuses_step_zero : (Instr.step 0 (.all false) (.all true)).wf = false := by decide
theorem test_wf_takes_step_one : (Instr.step 1 (.all false) (.all false)).wf = true := by decide
/-- 30_encoding R59: the flags have bits of their own, so a layout that puts two on one bit is ill formed. -/
theorem test_layout_refuses_shared_bit : FlagLayout.wf ⟨0, 1, 2, 3, 4, 4⟩ = false := by decide
theorem test_layout_takes_default : FlagLayout.default.wf = true := by decide

/-! Decoding and encoding: words from 30_encoding R58, R68 and vectors DEC1 to DEC8, N1 to N3. -/

theorem test_decode_stop : decode .default [0x00, 0x00, 0x00, 0xAA] =
    .ok (.stop ⟨false, false, false⟩ ⟨false, false, false⟩, [0xAA]) := by decide
/-- DEC2: duration 0000 0011 1110 1000, flags 0000 1011. -/
theorem test_decode_step : decode .default [0b11101000, 0b00000011, 0b00001011] =
    .ok (.step 1000 ⟨true, false, false⟩ ⟨true, true, false⟩, []) := by decide
theorem test_decode_largest : decode .default [0xFF, 0xFF, 0x3F] =
    .ok (.step 65535 ⟨true, true, true⟩ ⟨true, true, true⟩, []) := by decide
theorem test_decode_ignores_reserved : decode .default [0x01, 0x00, 0xC0] = decode .default [0x01, 0x00, 0x00] := by decide
theorem test_decode_stop_with_step_flag : decode .default [0x00, 0x00, 0x02] =
    .ok (.stop ⟨false, false, false⟩ ⟨true, false, false⟩, []) := by decide
theorem test_decode_directions_only : decode .default [0x34, 0x12, 0x15] =
    .ok (.step 4660 ⟨true, true, true⟩ ⟨false, false, false⟩, []) := by decide
theorem test_decode_steps_only : decode .default [0x00, 0x01, 0x2A] =
    .ok (.step 256 ⟨false, false, false⟩ ⟨true, true, true⟩, []) := by decide
theorem test_decode_rejects_short : decode .default [0xE8, 0x03] = .error (.starved 2) := by decide
theorem test_encode_step : encode .default (.step 1000 ⟨true, false, false⟩ ⟨true, true, false⟩) = [0xE8, 0x03, 0x0B] := by
  decide
theorem test_encode_drops_reserved : encodeStep .default (decodeStep .default 0x01 0x00 0xC0) = [0x01, 0x00, 0x00] := by
  decide
theorem test_assemble_mixed : RecordLine.assemble .default (.step 250 ⟨.dirOnly, .absent, .minus⟩) = [0xFA, 0x00, 0x21] := by
  decide
/-- A word the table gives 16 bits is followed by zeros. -/
theorem test_table_word_zero_extended : decodeTableWord 16 0x0B0000 = some (.stop (.all false) (.all false)) := by decide
theorem test_fetch_runs_first_after_reset :
    field (fun t => (t.curStep.duration, t.tmr.reload)) (step (State.reset.withFetchWord 24 0x0B03E8)) =
      some (1000, 1414) := by decide

/-! STOP and STEP: vectors E1 to E7. -/

/-- E3, with every line high before. -/
theorem test_stop_idles :
    field (fun t => (t.running, t.tmr.reload, t.dirLine, t.stepLine))
      (exec (.stop (.all false) (.all false)) { k0 with dirLine := .all true, stepLine := .all true }) =
      some (false, 10000, .all false, .all false) := by decide
/-- E5. -/
theorem test_stop_with_step_flag_records :
    field (fun t => (t.faults, t.running, t.tmr.reload)) (exec (.stop (.all false) ⟨true, false, false⟩) k0) =
      some ([.stopStep (mk 0 false true false false false false)], false, 10000) := by decide
/-- E2. -/
theorem test_step_scales_two_axes :
    field (fun t => (t.tmr.reload, t.running, t.status)) (exec (.step 628 ⟨true, true, false⟩ ⟨true, true, false⟩) k0) =
      some (888, true, ⟨false, false⟩) := by decide
/-- E6: the wrapped reload 0 is out of range and short. -/
theorem test_step_wraps_to_zero :
    field (fun t => (t.tmr.reload, t.status)) (exec (.step 46341 ⟨true, true, false⟩ ⟨true, true, false⟩) k0) =
      some (0, ⟨true, true⟩) := by decide

/-! Scaling: the table of section 2.4. -/

theorem test_scale_one : (scale .wrap 16 1 3).value = 2 ∧ (scale .wrap 16 3 2).value = 4 := by decide
theorem test_scale_last_in_range : scale .wrap 16 46340 2 = ⟨65535, false⟩ ∧ scale .wrap 16 37836 3 = ⟨65534, false⟩ := by
  decide
theorem test_scale_first_out_of_range : scale .wrap 16 46341 2 = ⟨0, true⟩ ∧ scale .wrap 16 37837 3 = ⟨0, true⟩ := by decide
theorem test_scale_wraps : scale .wrap 16 65535 3 = ⟨47974, true⟩ ∧ scale .saturate 16 65535 2 = ⟨65535, true⟩ := by decide
/-- D6: a wider timer would not overflow there; a narrower one overflows sooner. -/
theorem test_scale_other_widths : scale .wrap 17 46341 2 = ⟨65536, false⟩ ∧ scale .wrap 8 1000 1 = ⟨232, true⟩ := by decide

/-! The Manual Interpolator: vectors I1 to I20. -/

/-- I1, I3, I5, I7, I8, I10, in one list. -/
theorem test_manual_vectors :
    [(255, 128), (127, 128), (228, 178), (178, 28), (255, 255), (229, 178)].map
      (fun p : Byte × Byte => (k0At p.1 p.2).manualStep.1) =
    [mk 503 true true true false false false, .zero, mk 572 true true true true false false,
      mk 572 true true false true false false, mk 500 true true true true false false,
      mk 567 true true true false false false] := by decide +kernel
/-- B1: the second call on slope 1/2 does not step the minor axis; I18: on the edge of the deadzone, and just outside it; I19 and
I20: out of range above and below; R85: a changed vector restarts the line at n = 1. -/
theorem test_manual_corners :
    (k0At 228 178).manualStep.2.manualStep.1 = mk 572 true true true false false false ∧
    [144, 145].map (fun x => (State.manualStep { k0At x 128 with mcs := { k0.mcs with deadzone := .rat (1 / 8) } }).1) =
      [.zero, mk 4628 true true true false false false] ∧
    [((255 : Byte), (200000000 : Rat)), (128, 1000)].map (fun p =>
      let q := State.manualStep { k0At 255 p.1 with params := { k0.params with clockFreq := .rat p.2 } }
      (q.1, q.2.status.sRange)) =
      [(mk 34464 true true true true false false, true), (mk 0 true true true false false false, true)] ∧
    (State.manualStep { (k0At 228 178).manualStep.2.manualStep.2 with raw := ⟨178, 28⟩ }).2.mcs.n = 1 := by
  decide +kernel
/-- 41_step_interpolator R73: an implementation's arithmetic takes the place of the reference. -/
theorem test_numerics_is_configured :
    State.arithmetic { k0 with cfg := { k0.cfg with numerics := .implementation 3 } } = Config.arithmetic 3 := rfl
/-- 00_scope R9: the counter in COUNTER_WIDTH bits. -/
theorem test_counter_wraps : nextCount none 255 = 256 ∧ nextCount (some 8) 255 = 0 := by decide

/-! Timer, handler, tracker: vectors T1 to T8 and P-1 to P-5. -/

/-- T1. -/
theorem test_dir_event :
    field (fun t => t.dirLine)
      (step { k0 with curStep := mk 1000 true true false false false false, tmr := { k0.tmr with dirPend := true },
                      env := [.core] }) = some ⟨true, false, false⟩ := by decide
/-- T8: the flag equals the polarity, so the line stays low. -/
theorem test_dir_event_polarity :
    field (fun t => t.dirLine)
      (step { State.resetWith (k0Args 1000000 ⟨true, false, false⟩) with
        curStep := mk 1000 true true false false false false, tmr := { k0.tmr with dirPend := true }, env := [.core] }) =
      some ⟨false, false, false⟩ := by decide
/-- 43_pulse_sequencer R110, its example. -/
theorem test_step_event :
    field (fun t => (t.stepLine, t.pos))
      (step { k0 with curStep := mk 1000 true true false true false false, pos := ⟨5, 5, 5⟩,
                      tmr := { k0.tmr with stepPend := true }, env := [.core] }) =
      some (⟨true, true, false⟩, ⟨6, 4, 5⟩) := by decide
/-- T7: all three latches in one invocation; READY then stops the loop (T3). -/
theorem test_handler_serves_all :
    field (fun t => (t.dirLine.x, t.stepLine.x, t.pos.x, t.latched))
      (step { k0 with curStep := mk 1000 true true false false false false,
                      tmr := { k0.tmr with dirPend := true, stepPend := true, updPend := true }, env := [.core] }) =
      some (true, true, 1, false) := by decide
/-- P-4. -/
theorem test_track_overflow :
    let t := State.track { k0 with pos := ⟨0, 0, 2 ^ 31 - 1⟩ } (mk 1 false false false false true true)
    t.pos = ⟨0, 0, -2 ^ 31⟩ ∧ t.faults = [.posOverflow .z] := by decide
/-- P-5. -/
theorem test_track_underflow :
    let t := State.track { k0 with pos := ⟨-2 ^ 31, 0, 0⟩ } (mk 1 false true false false false false)
    t.pos = ⟨2 ^ 31 - 1, 0, 0⟩ ∧ t.faults = [.posOverflow .x] := by decide
/-- 00_scope R9: a Position component of another POS_WIDTH. -/
theorem test_track_other_width :
    let t := State.track { k0 with pos := ⟨127, 5, 0⟩, cfg := { k0.cfg with posWidth := 8 } }
      (mk 1 true true true true false false)
    t.pos = ⟨-128, 6, 0⟩ ∧ t.faults = [.posOverflow .x] := by decide
/-- 43_pulse_sequencer R106. -/
theorem test_timer_step_phase :
    field (fun t => (t.tmr.stepPend, t.tmr.phase))
      (step { k0Period .zero 1000 with tmr := { (k0Period .zero 1000).tmr with phase := .step }, env := [.timer] }) =
      some (true, .upd) := by decide

/-! Dispatch and the host: vectors DSP1 to DSP4, H1 to H9. -/

/-- DSP1. -/
theorem test_ready_dispatch_keeps_lines :
    field (fun t => (t.running, t.dirLine, t.tmr.armed))
      (State.dispatch { k0 with running := true, dirLine := ⟨true, false, false⟩ } .isr) =
      some (false, ⟨true, false, false⟩, false) := by decide
/-- DSP3. -/
theorem test_short_stream_holds :
    field (fun t => (t.running, t.stall, t.fifo)) ((k0Program [0xE8, 0x03] []).dispatch .isr) =
      some (true, some .isr, [0xE8, 0x03]) := by decide
/-- DSP4. -/
theorem test_resume :
    field (fun t => (t.fifo, t.streamPos, t.tmr.reload, t.stall))
      (step { k0Program [0xE8, 0x03, 0x03] [.core] with running := true, stall := some .isr }) =
      some ([], 3, 1000, none) := by decide
/-- DSP2. -/
theorem test_manual_dispatch :
    field (fun t => (t.running, t.tmr.reload))
      (State.dispatch { k0At 228 178 with opState := .manualControl } .fg) = some (true, 809) := by decide +kernel
/-- H2. -/
theorem test_trigger_while_armed :
    field (fun t => (t.faults, t.running)) (step { k0Period .zero 1000 with env := [.host .trigger] }) =
      some ([.hostProtocol .trigger], true) := by decide
/-- H1. -/
theorem test_trigger_in_ready :
    field (fun t => (t.running, t.tmr.armed)) (step { k0 with env := [.host .trigger] }) = some (false, false) := by decide
/-- H6. -/
theorem test_calibrate :
    field (fun t => (t.mcs.zero, t.faults)) (step { k0At 120 130 with env := [.host .calibrate] }) =
      some (⟨120, 130⟩, []) := by decide
/-- H7. -/
theorem test_clear_status_keeps_faults :
    field (fun t => (t.status, t.faults))
      (step { k0 with status := ⟨true, true⟩, faults := [.posOverflow .x], env := [.host .clearStatus] }) =
      some (⟨false, false⟩, [.posOverflow .x]) := by decide
/-- 44_host_interface R123. -/
theorem test_push_appends :
    field (fun t => t.fifo) (step (k0Program [0x01] [.host (.push 0x02)])) = some [0x01, 0x02] := by decide
/-- 44_host_interface R127: one channel. -/
theorem test_adc_writes_one_channel :
    field (fun t => t.raw) (step { k0 with env := [.adc .y 7] }) = some ⟨128, 7⟩ := by decide
/-- 60_exceptions R132, the table's bit numbers. -/
theorem test_status_word : Status.word ⟨true, false⟩ = 0b01 ∧ Status.word ⟨false, true⟩ = 0b10 := by decide
/-- 44_host_interface R125: what READ shows. -/
theorem test_read_view : (k0Program [1, 2] []).hostView.fifoLength = 2 ∧ k0.hostView.opState = .ready := by decide

/-! Witnesses: for each statement with hypotheses, values that meet them together; for a statement of several clauses, one for
each clause, at a boundary value where the clause has a range. -/

/-- RecordRoundTrip. -/
theorem witness_RecordRoundTrip :
    FlagLayout.default.wf = true ∧ FlagLayout.wf ⟨7, 6, 5, 4, 3, 2⟩ = true ∧ reservedClear .default 0x3F ∧
      (Instr.step 65535 (.all true) (.all true)).wf = true ∧ (Instr.stop (.all true) (.all true)).wf = true := by
  refine ⟨by decide, by decide, ?_, by decide, by decide⟩; unfold reservedClear; decide

/-- DurationSelectsTheForm: both clauses. -/
theorem witness_DurationSelectsTheForm :
    recordWord 0 0 0xFF % 2 ^ 16 = 0 ∧ recordWord 1 0 0 % 2 ^ 16 ≠ 0 ∧ recordWord 0 1 0 % 2 ^ 16 ≠ 0 := by decide

/-- ReservedBitsIgnored: two flag bytes that differ in the reserved bits only. -/
theorem witness_ReservedBitsIgnored :
    (0x3F : Byte).extractLsb' 0 6 = (0xFF : Byte).extractLsb' 0 6 ∧ (0x3F : Byte) ≠ 0xFF := by decide

/-- FetchRemovesOneRecord: a stream of exactly one record, and one a byte short. -/
theorem witness_FetchRemovesOneRecord :
    (k0Program [0xE8, 0x03, 0x0B] []).fifo = [0xE8, 0x03, 0x0B] ∧ (k0Program [0xE8, 0x03] []).fifo.length < 3 := by decide

/-- StepRecordEffect: the least and the greatest duration; in a period of reload 15 only the direction event is inside it. -/
theorem witness_StepRecordEffect :
    (1 : Ticks) ≠ 0 ∧ (65535 : Ticks) ≠ 0 ∧ k0.tmr.cmpDir < (15 : Ticks).toNat ∧ ¬ k0.tmr.cmpStep < (15 : Ticks).toNat ∧
      k0.tmr.cmpStep < k0.cfg.idleReload := by decide

/-- ScaleRoundsTheProduct: a duration, and the last in-range and first out-of-range one for two and three axes. -/
theorem witness_ScaleRoundsTheProduct :
    (1 : Ticks) ≠ 0 ∧ scaledDuration 46340 2 ≤ 65535 ∧ 65535 < scaledDuration 46341 2 ∧
      scaledDuration 37836 3 ≤ 65535 ∧ 65535 < scaledDuration 37837 3 := by decide

/-- StepRunsTheDecodedRecord: the three ways in. -/
theorem witness_StepRunsTheDecodedRecord :
    (∃ s : State, s.fifo = [0xE8, 0x03, 0x0B] ∧ s.stall = some .isr ∧ s.env = [.core]) ∧
    (∃ s : State, s.fifo = [0xE8, 0x03, 0x0B] ∧ s.active = false ∧ s.opState = .runningProgram ∧ s.env = [.host .trigger]) ∧
    (∃ s : State, s.fifo = [0xE8, 0x03, 0x0B] ∧ s.stall = none ∧ s.tmr.dirPend = false ∧ s.tmr.stepPend = false ∧
      s.tmr.updPend = true ∧ s.opState = .runningProgram ∧ s.env = [.core]) :=
  ⟨⟨{ k0Program [0xE8, 0x03, 0x0B] [.core] with stall := some .isr }, by decide⟩,
    ⟨k0Program [0xE8, 0x03, 0x0B] [.host .trigger], by decide⟩,
    ⟨{ k0Program [0xE8, 0x03, 0x0B] [.core] with tmr := { k0.tmr with updPend := true } }, by decide⟩⟩

/-- FetchedWordRuns. -/
theorem witness_FetchedWordRuns :
    State.reset.cfg.flagLayout = .default ∧
      decodeTableWord 24 0x0B03E8 = some (.step 1000 ⟨true, false, false⟩ ⟨true, true, false⟩) ∧
      decodeTableWord 16 0 = some (.stop (.all false) (.all false)) := by decide

/-! The joystick fully deflected along x or y, or along both, under K0 with a clock frequency: magnitude 1, quotient
`clock / 2000`. -/

/-- The joystick at a corner or an edge. -/
def deflected (clock : Rat) (x y : Byte) : State := { State.resetWith (k0Args clock (.all false)) with raw := ⟨x, y⟩ }

theorem deflected_legal (clock : Rat) (h : 0 < clock) (x y : Byte) : (deflected clock x y).Legal := by
  refine ⟨by simpa [deflected, State.resetWith, k0Args] using h, ?_, ?_, ?_, ?_, ?_, ?_, ?_, ?_⟩ <;>
    simp [deflected, State.resetWith, k0Args]

theorem deflected_exact (clock : Rat) (x y : Byte) : (deflected clock x y).Exact := rfl

/-- With the clamped magnitude 1 the deadzone leaves the vector as it is. -/
theorem deflected_factor {clock : Rat} {x y : Byte} (h : (deflected clock x y).refRawM = 1) :
    (deflected clock x y).refFactor = 1 := by
  have hd : (deflected clock x y).mcs.deadzone.toReal = 1 / 10 := by simp [deflected, State.resetWith, k0Args]
  unfold State.refFactor
  rw [h, hd]; norm_num

theorem deflected_vector {clock : Rat} {x y : Byte} {a b : ℝ} (hx : (deflected clock x y).refRawX = a)
    (hy : (deflected clock x y).refRawY = b) (h : 1 ≤ a ^ 2 + b ^ 2) : (deflected clock x y).refX = a ∧
    (deflected clock x y).refY = b ∧ (deflected clock x y).refM = 1 := by
  have hm : (deflected clock x y).refRawM = 1 := by
    unfold State.refRawM
    rw [hx, hy, min_eq_right (Real.le_sqrt_of_sq_le (by simpa using h))]
  unfold State.refX State.refY State.refM
  rw [deflected_factor hm, hx, hy, hm]; simp

theorem deflected_edge (clock : Rat) : (deflected clock 0 128).refX = -1 ∧ (deflected clock 0 128).refY = 0 ∧
    (deflected clock 0 128).refM = 1 :=
  deflected_vector (by simp [State.refRawX, deflected, State.resetWith, k0Args])
    (by simp [State.refRawY, deflected, State.resetWith, k0Args]) (by norm_num)

theorem deflected_corner (clock : Rat) : (deflected clock 0 0).refX = -1 ∧ (deflected clock 0 0).refY = -1 ∧
    (deflected clock 0 0).refM = 1 :=
  deflected_vector (by simp [State.refRawX, deflected, State.resetWith, k0Args])
    (by simp [State.refRawY, deflected, State.resetWith, k0Args]) (by norm_num)

theorem deflected_yEdge (clock : Rat) : (deflected clock 128 0).refX = 0 ∧ (deflected clock 128 0).refY = -1 ∧
    (deflected clock 128 0).refM = 1 :=
  deflected_vector (by simp [State.refRawX, deflected, State.resetWith, k0Args])
    (by simp [State.refRawY, deflected, State.resetWith, k0Args]) (by norm_num)

theorem deflected_rest (clock : Rat) : (deflected clock 128 128).refM = 0 := by
  simp [State.refM, State.refRawM, State.refRawX, State.refRawY, deflected, State.resetWith, k0Args]

theorem deflected_quotient (clock : Rat) : (deflected clock 0 128).refQuotient = clock / 2000 := by
  unfold State.refQuotient
  rw [(deflected_edge clock).2.2]
  simp only [deflected, State.resetWith, k0Args, ConfigReal.toReal_rat]
  push_cast; ring

theorem deflected_count (clock : Rat) (x y : Byte) : (deflected clock x y).refCount = 0 := by
  unfold State.refCount; split <;> rfl

/-- `deflected` with a counter of one bit, which can hold 1. -/
abbrev deflectedOneBit (clock : Rat) (x y : Byte) : State :=
  { deflected clock x y with cfg := { k0.cfg with counterWidth := some 1 } }

theorem deflectedOneBit_counts (clock : Rat) (x y : Byte) :
    (deflectedOneBit clock x y).Counts ((deflectedOneBit clock x y).refCount + 1) := by
  have h : (deflectedOneBit clock x y).refCount = 0 := by unfold State.refCount; split <;> rfl
  intro w hw
  obtain rfl : 1 = w := Option.some.inj hw
  rw [h]; decide

/-- ManualVectorIsTheRealOne: a call with magnitude 0, and one with magnitude 1 whose counter has one bit. -/
theorem witness_ManualVectorIsTheRealOne :
    (deflected 1000000 128 128).Legal ∧ (deflected 1000000 128 128).Exact ∧ (deflected 1000000 128 128).refM = 0 ∧
      (deflectedOneBit 1000000 0 128).Legal ∧ (deflectedOneBit 1000000 0 128).Exact ∧
      (deflectedOneBit 1000000 0 128).refM ≠ 0 ∧
      (deflectedOneBit 1000000 0 128).Counts ((deflectedOneBit 1000000 0 128).refCount + 1) := by
  refine ⟨deflected_legal _ (by norm_num) _ _, rfl, deflected_rest _, deflected_legal 1000000 (by norm_num) 0 128, rfl, ?_,
    deflectedOneBit_counts _ _ _⟩
  change (deflected 1000000 0 128).refM ≠ 0
  rw [(deflected_edge _).2.2]; norm_num

/-- ManualDurationIsTheRealQuotient: magnitude 0; and quotients 1, 1/2 and 65536. -/
theorem witness_ManualDurationIsTheRealQuotient :
    ((deflected 2000 128 128).Legal ∧ (deflected 2000 128 128).Exact ∧ (deflected 2000 128 128).refM = 0) ∧
    ((deflected 2000 0 128).Legal ∧ (deflected 2000 0 128).Exact ∧ (deflected 2000 0 128).refM ≠ 0 ∧ 1 ≤ (deflected 2000 0 128).refQuotient ∧
      (deflected 2000 0 128).refQuotient < 65536) ∧
    ((deflected 1000 0 128).Legal ∧ (deflected 1000 0 128).Exact ∧ (deflected 1000 0 128).refM ≠ 0 ∧ (deflected 1000 0 128).refQuotient < 1) ∧
    ((deflected 131072000 0 128).Legal ∧ (deflected 131072000 0 128).Exact ∧ (deflected 131072000 0 128).refM ≠ 0 ∧
      65536 ≤ (deflected 131072000 0 128).refQuotient) := by
  simp only [deflected_quotient, (deflected_edge _).2.2]
  refine ⟨⟨deflected_legal _ (by norm_num) _ _, rfl, deflected_rest _⟩,
    ⟨deflected_legal _ (by norm_num) _ _, rfl, ?_⟩, ⟨deflected_legal _ (by norm_num) _ _, rfl, ?_⟩,
    ⟨deflected_legal _ (by norm_num) _ _, rfl, ?_⟩⟩ <;> norm_num

/-- ManualFlagsFollowTheRealLine: x the major axis by a tie, and y the major axis. -/
theorem witness_ManualFlagsFollowTheRealLine :
    ((deflected 1000000 0 0).Legal ∧ (deflected 1000000 0 0).Exact ∧
      (deflected 1000000 0 0).refM ≠ 0 ∧ |(deflected 1000000 0 0).refY| ≤ |(deflected 1000000 0 0).refX| ∧
      (deflected 1000000 0 0).Counts ((deflected 1000000 0 0).refCount + 1)) ∧
    ((deflected 1000000 128 0).Legal ∧ (deflected 1000000 128 0).Exact ∧ (deflected 1000000 128 0).refM ≠ 0 ∧
      |(deflected 1000000 128 0).refX| < |(deflected 1000000 128 0).refY|) := by
  refine ⟨⟨deflected_legal _ (by norm_num) _ _, rfl, ?_⟩,
    ⟨deflected_legal _ (by norm_num) _ _, rfl, ?_⟩⟩
  · rw [(deflected_corner _).1, (deflected_corner _).2.1, (deflected_corner _).2.2]
    exact ⟨by norm_num, by norm_num, fun _ h => nomatch h⟩
  · rw [(deflected_yEdge _).1, (deflected_yEdge _).2.1, (deflected_yEdge _).2.2]; norm_num

/-- MinorStepsAddUpToTheLine: slope 0 and slope 1. -/
theorem witness_MinorStepsAddUpToTheLine :
    ((deflected 1000000 0 128).Legal ∧ (deflected 1000000 0 128).Exact ∧
      (deflected 1000000 0 128).refM ≠ 0 ∧ (deflected 1000000 0 128).refCount = 0 ∧
      (deflected 1000000 0 128).refSlope = 0) ∧
    ((deflected 1000000 0 0).Legal ∧ (deflected 1000000 0 0).Exact ∧
      (deflected 1000000 0 0).refM ≠ 0 ∧ (deflected 1000000 0 0).refCount = 0 ∧
      (deflected 1000000 0 0).refSlope = 1) := by
  refine ⟨⟨deflected_legal _ (by norm_num) _ _, rfl, ?_, deflected_count _ _ _, ?_⟩,
    ⟨deflected_legal _ (by norm_num) _ _, rfl, ?_, deflected_count _ _ _, ?_⟩⟩
  · rw [(deflected_edge _).2.2]; norm_num
  · unfold State.refSlope; rw [(deflected_edge _).1, (deflected_edge _).2.1]; norm_num
  · rw [(deflected_corner _).2.2]; norm_num
  · unfold State.refSlope; rw [(deflected_corner _).1, (deflected_corner _).2.1]; norm_num

/-- MagnitudeStaysInTheUnitInterval. -/
theorem witness_MagnitudeStaysInTheUnitInterval : (deflected 1000000 0 0).Legal ∧ (deflected 1000000 0 0).Exact :=
  ⟨deflected_legal _ (by norm_num) _ _, rfl⟩

/-- FullDeflectionAlongX: vector I17, with the quotient 500, and with the quotient at its lower bound 1. -/
theorem witness_FullDeflectionAlongX : ∃ s t : State,
    (s.Legal ∧ s.Exact ∧ s.mcs.deadzone.toReal < 1 ∧ s.raw.x.toNat = s.mcs.zero.x.toNat + 128 ∧ s.raw.y = s.mcs.zero.y ∧
      1 ≤ s.params.clockFreq.toReal / (s.mcs.maxFeed.toReal / 60) / s.params.stepsPerMm.toReal ∧
      s.params.clockFreq.toReal / (s.mcs.maxFeed.toReal / 60) / s.params.stepsPerMm.toReal < 65536) ∧
    (t.Legal ∧ t.Exact ∧ t.mcs.deadzone.toReal < 1 ∧ t.raw.x.toNat = t.mcs.zero.x.toNat + 128 ∧ t.raw.y = t.mcs.zero.y ∧
      t.params.clockFreq.toReal / (t.mcs.maxFeed.toReal / 60) / t.params.stepsPerMm.toReal = 1) := by
  refine ⟨{ deflected 1000000 255 128 with mcs := { k0.mcs with zero := ⟨127, 128⟩ } },
    { deflected 2000 255 128 with mcs := { k0.mcs with zero := ⟨127, 128⟩ } }, ⟨?_, rfl, ?_⟩, ?_, rfl, ?_⟩
  · exact deflected_legal 1000000 (by norm_num) 255 128
  · norm_num [deflected, State.resetWith, k0Args, k0]; decide
  · exact deflected_legal 2000 (by norm_num) 255 128
  · norm_num [deflected, State.resetWith, k0Args, k0]; decide

/-- ToTicksTruncatesAndFlags: 1, 65536, 0 and -1. -/
theorem witness_ToTicksTruncatesAndFlags :
    ((1 : ℝ) ≤ 1 ∧ (1 : ℝ) < 65536) ∧ (65536 : ℝ) ≤ 65536 ∧ ((0 : ℝ) ≤ 0 ∧ (0 : ℝ) < 1) ∧ (-1 : ℝ) < 0 := by norm_num

/-- CalibratedRestGivesTheZeroStep: vector I21. -/
theorem witness_CalibratedRestGivesTheZeroStep :
    ∃ s : State, s.Exact ∧ s.env = [.host .calibrate] ∧ 0 ≤ s.mcs.deadzone.toReal ∧ s.raw = ⟨120, 130⟩ :=
  ⟨{ k0At 120 130 with env := [.host .calibrate] }, rfl, rfl, by norm_num [k0At, k0, State.resetWith, k0Args], rfl⟩

/-! Dispatch, handler, timer. -/

/-- ReadyDispatchStopsStepping, DispatchSelectsTheProducer, ShortStreamHolds: the three values of `opState`; a stream of one
record, and one a byte short. -/
theorem witness_dispatch :
    k0.opState = .ready ∧ (∃ s : State, s.opState = .manualControl) ∧
      ((k0Program [0, 0, 0] []).opState = .runningProgram ∧ (k0Program [0, 0, 0] []).fifo = [0, 0, 0]) ∧
      ((k0Program [0, 0] []).opState = .runningProgram ∧ (k0Program [0, 0] []).fifo.length < 3) :=
  ⟨rfl, ⟨{ k0 with opState := .manualControl }, rfl⟩, by decide, by decide⟩

/-- HeldDispatchIgnoresOpState: vector DSP5, with the bytes there and one short. -/
theorem witness_HeldDispatchIgnoresOpState : ∃ s t s' t' : State,
    (s.stall ≠ none ∧ s.env = [.core] ∧ 3 ≤ s.fifo.length ∧ step s = .next t) ∧
    (s'.stall ≠ none ∧ s'.env = [.core] ∧ s'.fifo.length < 3 ∧ step s' = .next t') :=
  ⟨{ k0Program [0xE8, 0x03, 0x03] [.core] with stall := some .isr }, _, { k0Program [0xE8, 0x03] [.core] with stall := some .isr },
    _, ⟨by decide, rfl, by decide, rfl⟩, ⟨by decide, rfl, by decide, rfl⟩⟩

/-- DirEventRaisesTheLines, StepEventPulsesAndTracks, UpdateEventDispatches: one latch at a time. -/
theorem witness_events : ∃ d s u : State,
    (d.stall = none ∧ d.tmr.dirPend = true ∧ d.tmr.stepPend = false ∧ d.tmr.updPend = false ∧ d.env = [.core]) ∧
    (s.stall = none ∧ s.tmr.dirPend = false ∧ s.tmr.stepPend = true ∧ s.tmr.updPend = false ∧ s.env = [.core]) ∧
    (u.stall = none ∧ u.tmr.dirPend = false ∧ u.tmr.stepPend = false ∧ u.tmr.updPend = true ∧ u.env = [.core]) :=
  ⟨{ k0 with tmr := { k0.tmr with dirPend := true }, env := [.core] },
    { k0 with tmr := { k0.tmr with stepPend := true }, env := [.core] },
    { k0 with tmr := { k0.tmr with updPend := true }, env := [.core] }, by decide⟩

/-- TrackMovesEachSteppingAxisByOne: an axis that steps and one that does not; the sums just outside the range. -/
theorem witness_TrackMovesEachSteppingAxisByOne :
    (mk 1 true true false false false false).step.get .x = true ∧ (mk 1 true true false false false false).step.get .y = false ∧
      2 ^ (k0.cfg.posWidth - 1) - 1 < (2 ^ 31 - 1 : Coord) + 1 ∧ (-2 ^ 31 : Coord) + -1 < -2 ^ (k0.cfg.posWidth - 1) := by
  decide

/-- TimerIssuesItsEventsInOrder: the three phases, and the timer stopped. -/
theorem witness_TimerIssuesItsEventsInOrder : ∃ a b c d : State,
    (a.env = [.timer] ∧ a.tmr.armed = true ∧ a.tmr.phase = .dir) ∧ (b.env = [.timer] ∧ b.tmr.armed = true ∧ b.tmr.phase = .step) ∧
    (c.env = [.timer] ∧ c.tmr.armed = true ∧ c.tmr.phase = .upd) ∧ (d.env = [.timer] ∧ d.tmr.armed = false) :=
  ⟨{ k0 with tmr := { k0.tmr with armed := true, phase := .dir }, env := [.timer] },
    { k0 with tmr := { k0.tmr with armed := true, phase := .step }, env := [.timer] },
    { k0 with tmr := { k0.tmr with armed := true, phase := .upd }, env := [.timer] }, { k0 with env := [.timer] }, by decide⟩

/-- OneInvocationServesAsThree: a period in flight with both compare events firing. -/
theorem witness_OneInvocationServesAsThree :
    let s := k0Period (mk 1000 true true false false false false) 1000
    s.tmr.armed = true ∧ s.tmr.phase = .dir ∧ s.latched = false ∧ s.stall = none ∧ s.tmr.fireDir = true ∧
      s.tmr.fireStep = true := by decide

/-! The invariant. -/

/-- A period in flight with its lines low meets the invariant. -/
theorem period_inv : (k0Period (mk 1000 true true false false false false) 1000).Inv := by
  constructor
  case reloadOf => intro _; decide
  case posFits => intro a; cases a <;> decide
  case counterFits => intro w h; exact absurd h nofun
  case fits => intro c h; exact absurd h nofun
  case dirLines => intro a; cases a <;> decide
  case stepLines => intro a; cases a <;> decide
  all_goals decide

/-- A block with the timer stopped and nothing held meets it. -/
theorem program_inv (bytes : List Byte) (moves : List Move) : (k0Program bytes moves).Inv := by
  constructor
  case posFits => intro a; cases a <;> exact (by decide : fitsSigned 32 0 = true)
  case counterFits => intro w h; exact absurd h nofun
  case fits => intro c h; exact absurd h (by simp [k0Program, k0, State.resetWith, k0Args])
  all_goals simp [k0Program, k0, State.resetWith, k0Args, State.latched, PerAxis.all, PerAxis.get]
  all_goals intro a h; cases a <;> simp at h

/-- PeriodEffectsComeInOrder. -/
theorem witness_PeriodEffectsComeInOrder : ∃ s : State, s.Inv ∧ s.env = [] ∧ s.tmr.phase = .dir ∧
    s.tmr.cmpDir < s.tmr.cmpStep ∧ s.tmr.cmpStep < s.tmr.reload :=
  ⟨_, period_inv, rfl, rfl, by decide, by decide⟩

/-- EveryStepKeepsTheInvariant and PeriodsNeverOverlap: a step in a period, and a step that arms one. -/
theorem witness_invariant_steps : ∃ s t s' t' : State,
    (s.Inv ∧ step s = .next t ∧ s.tmr.armed = true) ∧
    (s'.Inv ∧ step s' = .next t' ∧ t'.trace.countP TraceEvent.isArmed ≠ s'.trace.countP TraceEvent.isArmed) :=
  ⟨_, _, k0Program [0xE8, 0x03, 0x03] [.host .trigger], _, ⟨period_inv, rfl, rfl⟩, program_inv _ _, rfl, by decide⟩

/-! Host. -/

/-- GuardedOperationsFaultWhileActive: each reason to be active, and both operations. -/
theorem witness_GuardedOperationsFaultWhileActive (c : ConfigureArgs) :
    (∃ s : State, s.running = true ∧ s.env = [.host .trigger]) ∧ (∃ s : State, s.tmr.armed = true ∧ s.env = [.host (.configure c)]) ∧
    (∃ s : State, s.tmr.dirPend = true ∧ s.env = [.host .trigger]) ∧ (∃ s : State, s.tmr.stepPend = true ∧ s.env = [.host .trigger]) ∧
    (∃ s : State, s.tmr.updPend = true ∧ s.env = [.host .trigger]) ∧ (∃ s : State, s.stall ≠ none ∧ s.env = [.host .trigger]) :=
  ⟨⟨{ k0 with running := true, env := [.host .trigger] }, rfl, rfl⟩,
    ⟨{ k0 with tmr := { k0.tmr with armed := true }, env := [.host (.configure c)] }, rfl, rfl⟩,
    ⟨{ k0 with tmr := { k0.tmr with dirPend := true }, env := [.host .trigger] }, rfl, rfl⟩,
    ⟨{ k0 with tmr := { k0.tmr with stepPend := true }, env := [.host .trigger] }, rfl, rfl⟩,
    ⟨{ k0 with tmr := { k0.tmr with updPend := true }, env := [.host .trigger] }, rfl, rfl⟩,
    ⟨{ k0 with stall := some .isr, env := [.host .trigger] }, by decide, rfl⟩⟩

/-- ConfigureWritesTheConfiguration and TriggerRunsTheDispatch. -/
theorem witness_inactive (c : ConfigureArgs) :
    (∃ s : State, s.active = false ∧ s.env = [.host (.configure c)]) ∧ (∃ s : State, s.active = false ∧ s.env = [.host .trigger]) :=
  ⟨⟨{ k0 with env := [.host (.configure c)] }, rfl, rfl⟩, ⟨{ k0 with env := [.host .trigger] }, rfl, rfl⟩⟩

/-- FreeOperationsWriteTheirFields: each operation, in a block that is stepping. -/
theorem witness_FreeOperationsWriteTheirFields :
    ∀ m ∈ [Move.host (.setState .ready), .host .calibrate, .host (.recordEvent ⟨1, some 2, none, none⟩), .host .read,
      .host .clearStatus, .adc .x 255, .adc .y 0],
    ∃ s : State, s.active = true ∧ s.env = [m] := fun m _ => ⟨{ k0 with running := true, env := [m] }, rfl, rfl⟩

/-- PushAppendsWhereThereIsRoom: an unbounded source, and a bounded one with one place left. -/
theorem witness_PushAppendsWhereThereIsRoom : ∃ s t : State,
    (s.env = [.host (.push 1)] ∧ ∀ c, s.cfg.fifoCap = some c → s.fifo.length < c) ∧
    (t.env = [.host (.push 1)] ∧ t.cfg.fifoCap = some 1 ∧ ∀ c, t.cfg.fifoCap = some c → t.fifo.length < c) :=
  ⟨{ k0 with env := [.host (.push 1)] }, { k0 with env := [.host (.push 1)], cfg := { k0.cfg with fifoCap := some 1 } },
    ⟨rfl, fun _ h => absurd h (by simp [k0, State.resetWith, k0Args])⟩,
    ⟨rfl, rfl, fun c h => by simp at h; subst h; decide⟩⟩

/-- TurnPassesWhereNothingIsEnabled: its four clauses; the full source is one exactly at its capacity. -/
theorem witness_TurnPassesWhereNothingIsEnabled : ∃ a b c d : State,
    (a.env = [.core] ∧ a.stall = none ∧ a.latched = false) ∧ (b.env = [.core] ∧ b.stall ≠ none ∧ b.fifo.length < 3) ∧
    (c.env = [.timer] ∧ c.tmr.armed = false) ∧
    (d.env = [.host (.push 1)] ∧ d.cfg.fifoCap = some 1 ∧ d.fifo.length = 1) :=
  ⟨{ k0 with env := [.core] }, { k0Program [1, 2] [.core] with stall := some .fg }, { k0 with env := [.timer] },
    { k0Program [1] [.host (.push 1)] with cfg := { k0.cfg with fifoCap := some 1 } }, by decide⟩

/-- BootOrderStartsTheProgram. -/
theorem witness_BootOrderStartsTheProgram (c : ConfigureArgs) : ∃ s : State, s.active = false ∧
    s.fifo = [0xE8, 0x03, 0x0B] ∧ s.env = bootMoves c .runningProgram :=
  ⟨{ k0 with fifo := [0xE8, 0x03, 0x0B], env := bootMoves c .runningProgram }, rfl, rfl, rfl⟩

/-- OnlySetStateWritesOpState: a step that changes `opState`. -/
theorem witness_OnlySetStateWritesOpState : ∃ s t : State, step s = .next t ∧ t.opState ≠ s.opState :=
  ⟨{ k0 with env := [.host (.setState .manualControl)] }, _, rfl, by decide⟩

/-- FaultsAreNeverRemoved: a step of a state with a fault recorded. -/
theorem witness_FaultsAreNeverRemoved : ∃ s t : State, step s = .next t ∧ FaultRecord.posOverflow .x ∈ s.faults :=
  ⟨{ k0 with faults := [.posOverflow .x], env := [.host .clearStatus] }, _, rfl, by decide⟩

/-- TraceIsAppendOnly, StreamIsConsumedByRecords, PositionMovesOnlyByTracking, ParametersAreFixed: a step with each of the
stream's three cases, and one that moves the position. -/
theorem witness_steps : ∃ s t p q d e m n : State,
    (step s = .next t ∧ t.fifo = s.fifo) ∧ (step p = .next q ∧ q.fifo = p.fifo ++ [7]) ∧
    (step d = .next e ∧ e.streamPos = d.streamPos + 3) ∧ (step m = .next n ∧ n.pos.get .x ≠ m.pos.get .x) :=
  ⟨k0, _, { k0 with env := [.host (.push 7)] }, _, k0Program [0xE8, 0x03, 0x03] [.host .trigger], _,
    { k0 with curStep := mk 1000 true true false false false false, tmr := { k0.tmr with stepPend := true }, env := [.core] }, _,
    ⟨rfl, rfl⟩, ⟨rfl, rfl⟩, ⟨rfl, rfl⟩, ⟨rfl, by decide⟩⟩

/-- StatusBitsAreSticky: both bits set, and a move other than CLEAR_STATUS. -/
theorem witness_StatusBitsAreSticky : ∃ s t : State, step s = .next t ∧ (∀ moves, s.env ≠ .host .clearStatus :: moves) ∧
    s.status = ⟨true, true⟩ :=
  ⟨{ k0 with status := ⟨true, true⟩, env := [.core] }, _, rfl, by simp, rfl⟩

/-- LastEventIsNotConsumed and MaxSpeedAndAccelAreNotRead: a step whose move is neither RECORD_EVENT nor CONFIGURE. -/
theorem witness_unread : ∃ s t : State, (∀ ev moves, s.env ≠ .host (.recordEvent ev) :: moves) ∧
    (∀ c moves, s.env ≠ .host (.configure c) :: moves) ∧ step s = .next t :=
  ⟨k0Program [0xE8, 0x03, 0x03] [.host .trigger], _, by simp [k0Program], by simp [k0Program], rfl⟩

/-- QuiescentUntilTriggered. -/
theorem witness_QuiescentUntilTriggered : ∃ s t : State, s.Quiescent ∧ (∀ moves, s.env ≠ .host .trigger :: moves) ∧
    step s = .next t :=
  ⟨{ k0 with env := [.host (.setState .runningProgram)] }, _, ⟨rfl, rfl, rfl, rfl⟩, by simp, rfl⟩

end Sys2Proof.Tests
end

section
/-! PROOFS. Step records (30_encoding): the fields of the record word, and what the reserved bits of the flag byte do on the
two round trips. -/

namespace Sys2Proof

/-! The record word. -/

/-- 30_encoding R60: the duration is little-endian. -/
theorem recordDuration_toNat (b0 b1 : Byte) : (recordDuration b0 b1).toNat = b0.toNat + 2 ^ 8 * b1.toNat := by
  have hb0 := b0.isLt
  have hb1 := b1.isLt
  rw [recordDuration, BitVec.toNat_setWidth, BitVec.toNat_append, Nat.shiftLeft_eq, Nat.mul_comm b1.toNat,
    ← Nat.two_pow_add_eq_or_of_lt hb0]
  omega

theorem recordWord_mod_two_pow_16 (b0 b1 b2 : Byte) :
    recordWord b0 b1 b2 % 2 ^ 16 = (recordDuration b0 b1).toNat := by
  have hb0 := b0.isLt
  have hb1 := b1.isLt
  rw [recordDuration_toNat, recordWord]
  omega

theorem recordWord_div_two_pow_16 (b0 b1 b2 : Byte) : recordWord b0 b1 b2 / 2 ^ 16 = b2.toNat := by
  have hb0 := b0.isLt
  have hb1 := b1.isLt
  rw [recordWord]
  omega

/-- The bits of the word from 16 up are those of the flag byte. -/
theorem recordWord_testBit_add_16 (b0 b1 b2 : Byte) (i : Nat) :
    (recordWord b0 b1 b2).testBit (i + 16) = b2.getLsbD i := by
  rw [Nat.testBit_add, recordWord_div_two_pow_16, BitVec.testBit_toNat]

theorem recordDir_default (b0 b1 b2 : Byte) : recordDir .default b2 =
    ⟨(recordWord b0 b1 b2).testBit 16, (recordWord b0 b1 b2).testBit 18, (recordWord b0 b1 b2).testBit 20⟩ := by
  have hbit := recordWord_testBit_add_16 b0 b1 b2
  rw [hbit 0, hbit 2, hbit 4]
  rfl

theorem recordStep_default (b0 b1 b2 : Byte) : recordStep .default b2 =
    ⟨(recordWord b0 b1 b2).testBit 17, (recordWord b0 b1 b2).testBit 19, (recordWord b0 b1 b2).testBit 21⟩ := by
  have hbit := recordWord_testBit_add_16 b0 b1 b2
  rw [hbit 1, hbit 3, hbit 5]
  rfl

/-- Settles O3: the low 16 bits of the word are the duration, and what stands above them is the flag byte. -/
theorem recordWordFields : Obligations.RecordWordFields := by
  intro b0 b1 b2
  obtain ⟨hlow, hhigh⟩ : recordWord b0 b1 b2 % 2 ^ 8 = b0.toNat ∧ recordWord b0 b1 b2 / 2 ^ 8 % 2 ^ 8 = b1.toNat := by
    have hb0 := b0.isLt
    have hb1 := b1.isLt
    rw [recordWord]
    omega
  exact ⟨hlow, hhigh, recordWord_div_two_pow_16 b0 b1 b2, fun _ => (recordWord_mod_two_pow_16 b0 b1 b2).symm,
    recordDir_default b0 b1 b2, recordStep_default b0 b1 b2⟩

/-! The duration's two bytes. -/

@[simp] theorem recordDuration_bytes (d : Ticks) : recordDuration (d.setWidth 8) ((d >>> 8).setWidth 8) = d := by
  apply BitVec.eq_of_toNat_eq
  have hd := d.isLt
  simp only [recordDuration_toNat, BitVec.toNat_setWidth, BitVec.toNat_ushiftRight, Nat.shiftRight_eq_div_pow]
  omega

@[simp] theorem recordDuration_low (b0 b1 : Byte) : (recordDuration b0 b1).setWidth 8 = b0 := by
  apply BitVec.eq_of_toNat_eq
  have hb0 := b0.isLt
  rw [BitVec.toNat_setWidth, recordDuration_toNat]
  omega

@[simp] theorem recordDuration_high (b0 b1 : Byte) : (recordDuration b0 b1 >>> 8).setWidth 8 = b1 := by
  apply BitVec.eq_of_toNat_eq
  have hb0 := b0.isLt
  have hb1 := b1.isLt
  rw [BitVec.toNat_setWidth, BitVec.toNat_ushiftRight, Nat.shiftRight_eq_div_pow, recordDuration_toNat]
  omega

/-! The flag byte, bit by bit. -/

theorem getLsbD_flagBit (b : Bool) (p j : Fin 8) : (flagBit b p).getLsbD j = (b && decide (p = j)) := by
  cases b with
  | false => simp [flagBit]
  | true => simp [flagBit, BitVec.getElem_twoPow, Fin.ext_iff, eq_comm]

/-- Bit `j` of an encoded flag byte is set exactly where a set flag occupies it. -/
theorem getLsbD_encodeFlags (l : FlagLayout) (dir step : PerAxis Bool) (j : Fin 8) :
    (encodeFlags l dir step).getLsbD j =
      (dir.x && decide (l.xDir = j) || step.x && decide (l.xStep = j) || dir.y && decide (l.yDir = j) ||
        step.y && decide (l.yStep = j) || dir.z && decide (l.zDir = j) || step.z && decide (l.zStep = j)) := by
  simp only [encodeFlags, BitVec.getLsbD_or, getLsbD_flagBit]

/-- 30_encoding R63: the encoder writes the bits no flag occupies 0. -/
theorem reservedClear_encodeFlags (l : FlagLayout) (dir step : PerAxis Bool) :
    reservedClear l (encodeFlags l dir step) := by
  intro p hp
  simp only [FlagLayout.positions, List.mem_cons, List.not_mem_nil, or_false, not_or, eq_comm (a := p)] at hp
  simp only [getLsbD_encodeFlags, hp, decide_false, Bool.and_false, Bool.or_false]

/-- Where each flag has a bit of its own, the flags read are the flags written: at a flag's bit the other five terms of
`getLsbD_encodeFlags` vanish. -/
theorem record_encodeFlags {l : FlagLayout} (hl : l.wf = true) (dir step : PerAxis Bool) :
    recordDir l (encodeFlags l dir step) = dir ∧ recordStep l (encodeFlags l dir step) = step := by
  simp only [FlagLayout.wf, FlagLayout.positions, decide_eq_true_eq, List.nodup_cons, List.mem_cons, List.not_mem_nil,
    or_false, not_or] at hl
  simp only [recordDir, recordStep, getLsbD_encodeFlags]
  cases dir
  cases step
  grind

/-- Re-encoding a flag byte keeps the bits a flag occupies and clears the others. -/
theorem getLsbD_encodeFlags_record (l : FlagLayout) (b2 : Byte) (j : Fin 8) :
    (encodeFlags l (recordDir l b2) (recordStep l b2)).getLsbD j = (b2.getLsbD j && decide (j ∈ l.positions)) := by
  have hflag (p : Fin 8) : (b2.getLsbD p && decide (p = j)) = (b2.getLsbD j && decide (j = p)) := by
    by_cases h : p = j
    · rw [h]
    · simp [h, Ne.symm h]
  simp only [getLsbD_encodeFlags, recordDir, recordStep, hflag, FlagLayout.positions, List.mem_cons, List.not_mem_nil,
    or_false, Bool.decide_or, Bool.and_or_distrib_left, Bool.or_assoc]

/-! The two round trips. -/

/-- Two flag bytes that agree where the layout has a flag decode alike. -/
theorem decodeStep_congr {l : FlagLayout} {b2 b2' : Byte} (h : ∀ p ∈ l.positions, b2.getLsbD p = b2'.getLsbD p)
    (b0 b1 : Byte) : decodeStep l b0 b1 b2 = decodeStep l b0 b1 b2' := by
  simp only [FlagLayout.positions, List.forall_mem_cons] at h
  obtain ⟨hxDir, hxStep, hyDir, hyStep, hzDir, hzStep, -⟩ := h
  simp only [decodeStep, recordDir, recordStep, hxDir, hxStep, hyDir, hyStep, hzDir, hzStep]

/-- Decoding the three bytes of a Step gives it back. -/
theorem decodeStep_encodeFlags {l : FlagLayout} (hl : l.wf = true) (s : Step) :
    decodeStep l (s.duration.setWidth 8) ((s.duration >>> 8).setWidth 8) (encodeFlags l s.dir s.step) = s := by
  obtain ⟨hdir, hstep⟩ := record_encodeFlags hl s.dir s.step
  rw [decodeStep, recordDuration_bytes, hdir, hstep]

/-- A flag byte survives its re-encoding exactly when its reserved bits are 0. -/
theorem encodeFlags_record_eq_iff (l : FlagLayout) (b2 : Byte) :
    encodeFlags l (recordDir l b2) (recordStep l b2) = b2 ↔ reservedClear l b2 := by
  constructor
  · intro h
    rw [← h]
    exact reservedClear_encodeFlags l _ _
  · intro h
    apply BitVec.eq_of_getLsbD_eq
    intro i hi
    rw [getLsbD_encodeFlags_record l b2 ⟨i, hi⟩]
    by_cases hp : ⟨i, hi⟩ ∈ l.positions
    · simp [hp]
    · simp [hp, h _ hp]

/-- Bytes survive decoding and encoding exactly when their reserved bits are 0. -/
theorem encodeStep_decodeStep_eq_iff (l : FlagLayout) (b0 b1 b2 : Byte) :
    encodeStep l (decodeStep l b0 b1 b2) = [b0, b1, b2] ↔ reservedClear l b2 := by
  rw [← encodeFlags_record_eq_iff]
  simp [encodeStep, decodeStep]

/-! Under the default layout the flags are bits 5:0 and the reserved bits 7:6. -/

theorem getLsbD_eq_of_extractLsb'_eq {b2 b2' : Byte} (h : b2.extractLsb' 0 6 = b2'.extractLsb' 0 6) :
    ∀ p ∈ FlagLayout.default.positions, b2.getLsbD p = b2'.getLsbD p := by
  intro p hp
  have hlt : (p : Nat) < 6 := by revert p; decide
  simpa [hlt] using congrArg (BitVec.getLsbD · p) h

theorem reservedClear_default_iff (b2 : Byte) : reservedClear .default b2 ↔ b2.extractLsb' 6 2 = 0 := by
  revert b2
  unfold reservedClear
  decide

/-- Settles O5: the decoder reads the flags' bits only, the encoder writes no other, and so the bytes come back exactly when
the reserved bits were 0. -/
theorem reservedBitsIgnored : Obligations.ReservedBitsIgnored := by
  refine ⟨fun b0 b1 b2 b2' h => decodeStep_congr (getLsbD_eq_of_extractLsb'_eq h) b0 b1, fun s => ?_, fun b0 b1 b2 => ?_⟩
  · have hclear := reservedClear_encodeFlags .default s.dir s.step
    exact ⟨_, _, _, rfl, (reservedClear_default_iff _).mp hclear, decodeStep_encodeFlags (by decide) s⟩
  · rw [encodeStep_decodeStep_eq_iff, reservedClear_default_iff]

end Sys2Proof
end

section
/-! PROOFS. Step records (40_step_record R70): the encoder's bytes under the default layout, and the round trips of Steps,
bytes and records. -/

namespace Sys2Proof

/-! The encoder's bytes under the default layout. -/

theorem encodeFlags_default (dir step : PerAxis Bool) : encodeFlags .default dir step =
    (0b00#2 ++ BitVec.ofBool step.z ++ BitVec.ofBool dir.z ++ BitVec.ofBool step.y ++ BitVec.ofBool dir.y ++
      BitVec.ofBool step.x ++ BitVec.ofBool dir.x : BitVec 8) := by
  obtain ⟨xDir, yDir, zDir⟩ := dir
  obtain ⟨xStep, yStep, zStep⟩ := step
  revert xDir yDir zDir xStep yStep zStep
  decide

/-! Decoding what the encoder wrote. -/

/-- The decoder reads one encoded Step as the record it is, and leaves the bytes after it. -/
theorem decode_encodeStep {l : FlagLayout} (hl : l.wf = true) (s : Step) (rest : List Byte) :
    decode l (encodeStep l s ++ rest) = .ok (s.toInstr, rest) := by
  simp only [encodeStep, List.cons_append, List.nil_append, decode, decodeRecord, decodeStep_encodeFlags hl]

/-- A well-formed record survives encoding and decoding: it is the form its Step's duration selects. -/
theorem decode_encode {l : FlagLayout} (hl : l.wf = true) {i : Instr} (hi : i.wf = true) (rest : List Byte) :
    decode l (encode l i ++ rest) = .ok (i, rest) := by
  rw [encode, decode_encodeStep hl, Instr.toStep_toInstr i hi]

/-- Settles O1: the bytes are R70's, and each round trip is that of the duration's two bytes and of the flag byte, whose
flags do not share a bit. -/
theorem recordRoundTrip : Obligations.RecordRoundTrip := by
  refine ⟨fun s => ?_, fun l s rest hl => ?_, fun l b0 b1 b2 _ hclear => ?_, fun l i rest hl hi => ?_⟩
  · rw [encodeStep, encodeFlags_default, BitVec.setWidth_ushiftRight_eq_extractLsb,
      BitVec.setWidth_eq_extractLsb' (by decide)]
  · exact ⟨decode_encodeStep hl s rest, s.toInstr_toStep⟩
  · exact (encodeStep_decodeStep_eq_iff l b0 b1 b2).mpr hclear
  · exact decode_encode hl hi rest

end Sys2Proof
end

section
/-! PROOFS. One call of MANUAL_STEP under the reference arithmetic (41_step_interpolator R75 to R80, R84): the vector and the
counter it stores, and the duration and the status bit its quotient gives. -/

namespace Sys2Proof.Machine

/-! The working state of the interpolator after a call. -/

@[simp] theorem ManualControlStatus.advance_last (ar : Arithmetic) (rad : Nat) (slope : RealExpr) (n : Nat)
    (c : ManualControlStatus) : (c.advance ar rad slope n).last = c.last := rfl

@[simp] theorem ManualControlStatus.advance_n (ar : Arithmetic) (rad : Nat) (slope : RealExpr) (n : Nat)
    (c : ManualControlStatus) : (c.advance ar rad slope n).n = n := rfl

/-- Step 4 keeps the coordinates (41_step_interpolator R78). -/
theorem ManualControlStatus.retarget_coords (ar : Arithmetic) (c : ManualControlStatus) (v : PerChannel Number) :
    (c.retarget ar v).previousCoord = c.previousCoord ∧ (c.retarget ar v).newCoord = c.newCoord := by
  rcases c.retarget_cases ar v with e | e <;> rw [e] <;> exact ⟨rfl, rfl⟩

/-- A call stores the vector of step 4, whatever its magnitude: only the later steps differ. -/
theorem State.manualStep_last {s : State} (hx : s.Exact) : s.manualStep.2.mcs.last = s.retargeted.last := by
  by_cases hm : s.refM = 0
  · rw [s.manualStep_rest hx hm]
  · rw [s.manualStep_moving hx hm, ManualControlStatus.advance_last]

/-- A call with a magnitude counts once, where the counter has room (41_step_interpolator R83). -/
theorem State.manualStep_n {s : State} (hx : s.Exact) (hm : s.refM ≠ 0) (hn : s.Counts (s.refCount + 1)) :
    s.manualStep.2.mcs.n = s.refCount + 1 := by
  rw [s.manualStep_moving hx hm, ManualControlStatus.advance_n, s.retarget_n hx, State.nextCount_eq hn]

/-- Settles O16: both kinds of call store what step 4 left; one at rest stops there, one with a magnitude counts on. -/
theorem manualVectorIsTheRealOne : Obligations.ManualVectorIsTheRealOne := by
  intro s _ hx
  obtain ⟨hlastX, hlastY⟩ := s.retarget_last hx
  rw [s.manualStep_last hx]
  refine ⟨hlastX, hlastY, fun hm => ?_, s.manualStep_n hx⟩
  obtain ⟨hprev, hnew⟩ := s.mcs.retarget_coords s.arithmetic (s.deflection.vector s.rootRad)
  rw [s.manualStep_rest hx hm]
  exact ⟨rfl, s.retarget_n hx, hprev, hnew, rfl⟩

end Sys2Proof.Machine
end

section
/-! PROOFS. The duration of a call of MANUAL_STEP (41_step_interpolator R79, R80): in a legal configuration the quotient is
positive and finite, and `to_u16` makes it a tick count. -/

namespace Sys2Proof.Machine

/-! `to_u16` of a quotient that is not negative (41_step_interpolator R80). -/

theorem toTicks_zero (p : RangePolicy) (free : Ticks) : toTicks p free (some 0) = ⟨0, true⟩ := rfl

theorem toTicks_pos (p : RangePolicy) (free : Ticks) {k : ℤ} (hk : 0 < k) :
    toTicks p free (some k) = narrow p 16 k.toNat := by
  rw [toTicks, if_neg hk.not_gt, if_neg hk.ne']

theorem toTicks_inRange (p : RangePolicy) (free : Ticks) {k : ℤ} (hlo : 1 ≤ k) (hhi : k < 65536) :
    toTicks p free (some k) = ⟨k.toNat, false⟩ := by
  rw [toTicks_pos p free hlo]
  exact if_pos (by omega)

theorem toTicks_overflow (p : RangePolicy) (free : Ticks) {k : ℤ} (hk : 65536 ≤ k) :
    toTicks p free (some k) = ⟨if p = .wrap then k.toNat % 65536 else 65535, true⟩ := by
  rw [toTicks_pos p free (by omega)]
  refine (if_neg (by omega)).trans ?_
  cases p <;> rfl

/-- `to_u16` gives 16 bits. -/
theorem toTicks_lt (p : RangePolicy) (free : Ticks) (q : Option ℤ) : (toTicks p free q).value < 2 ^ 16 := by
  unfold toTicks
  split
  · exact free.isLt
  · split
    · exact free.isLt
    · split
      · exact Nat.two_pow_pos 16
      · exact narrow_lt p 16 _

/-! The Step's duration and the status after a call with a magnitude. -/

theorem State.manualStep_duration {s : State} (hx : s.Exact) (hm : s.refM ≠ 0) :
    s.manualStep.1.duration.toNat = s.manualTicks.value := by
  rw [s.manualStep_moving hx hm]
  exact (BitVec.toNat_ofNat _ 16).trans (Nat.mod_eq_of_lt (toTicks_lt _ _ _))

theorem State.manualStep_status {s : State} (hx : s.Exact) (hm : s.refM ≠ 0) :
    s.manualStep.2.status = { s.status with sRange := s.status.sRange || s.manualTicks.outOfRange } := by
  rw [s.manualStep_moving hx hm]; rfl

/-! The quotient in a legal configuration. -/

/-- The magnitude after the deadzone is at most 1: past the radius `r` it is `(m - r) / (1 - r)` of an `m` at most 1
(41_step_interpolator R76, R77). -/
theorem State.refM_mem_unit {s : State} (hr : 0 ≤ s.mcs.deadzone.toReal) : s.refM ∈ Set.Icc (0 : ℝ) 1 := by
  have hle : s.refRawM ≤ 1 := min_le_right _ _
  unfold State.refM State.refFactor
  split
  · simp
  · next hgt =>
    rw [not_le] at hgt
    have hm : 0 < s.refRawM := hr.trans_lt hgt
    have hr1 : 0 < 1 - s.mcs.deadzone.toReal := by linarith
    have hfactor : 0 ≤ (s.refRawM - s.mcs.deadzone.toReal) / ((1 - s.mcs.deadzone.toReal) * s.refRawM) :=
      div_nonneg (by linarith) (by positivity)
    rw [max_eq_right hfactor]
    refine ⟨mul_nonneg hfactor hm.le, ?_⟩
    rw [div_mul_eq_mul_div, mul_div_mul_right _ _ hm.ne', div_le_one hr1]
    linarith

/-- The feed per second is positive: it lies between the least and the greatest feed (41_step_interpolator R79). -/
theorem State.Legal.feed_pos {s : State} (h : s.Legal) :
    0 < (s.mcs.minFeed.toReal + s.refM * (s.mcs.maxFeed.toReal - s.mcs.minFeed.toReal)) / 60 := by
  obtain ⟨-, -, hmin, hmax, hr, -⟩ := h
  exact div_pos ((convex_Ioi (0 : ℝ)).add_smul_sub_mem hmin hmax (s.refM_mem_unit hr)) (by norm_num)

theorem State.Legal.refQuotient_pos {s : State} (h : s.Legal) : 0 < s.refQuotient := by
  have hfeed := h.feed_pos
  obtain ⟨hclock, hsteps, -⟩ := h
  exact div_pos (div_pos hclock hfeed) hsteps

/-- In a legal configuration `to_u16` is given the floor of the real quotient (41_step_interpolator R79, R80). -/
theorem State.Legal.manualTicks_eq {s : State} (h : s.Legal) (hx : s.Exact) :
    s.manualTicks = toTicks s.cfg.rangePolicy (Config.freeTicks s.draws) (some ⌊s.refQuotient⌋) := by
  have hfeed := h.feed_pos
  obtain ⟨-, hsteps, -⟩ := h
  rw [State.manualTicks, s.durationFloor_eq hx hsteps.ne' hfeed.ne']

/-- Settles O17: the quotient is positive, so its floor is in one of the three ranges of `to_u16`. -/
theorem manualDurationIsTheRealQuotient : Obligations.ManualDurationIsTheRealQuotient := by
  intro s hl hx
  refine ⟨fun hm => by rw [s.manualStep_rest hx hm]; rfl, fun hm => ?_⟩
  have hpos := hl.refQuotient_pos
  have hticks := hl.manualTicks_eq hx
  have hdur := s.manualStep_duration hx hm
  have hstat := s.manualStep_status hx hm
  refine ⟨hpos, fun hlo hhi => ?_, fun hlt => ?_, fun hge => ?_⟩
  · have hfloor : 1 ≤ ⌊s.refQuotient⌋ := Int.le_floor.mpr (by exact_mod_cast hlo)
    rw [hticks, toTicks_inRange _ _ hfloor (Int.floor_lt.mpr (by exact_mod_cast hhi))] at hdur hstat
    exact ⟨by rw [hdur]; exact Int.toNat_of_nonneg (by omega), by simpa using hstat⟩
  · rw [hticks, Int.floor_eq_zero_iff.mpr ⟨hpos.le, hlt⟩, toTicks_zero] at hdur hstat
    exact ⟨BitVec.eq_of_toNat_eq hdur, by simpa using hstat⟩
  · have hfloor : 65536 ≤ ⌊s.refQuotient⌋ := Int.le_floor.mpr (by exact_mod_cast hge)
    rw [hticks, toTicks_overflow _ _ hfloor] at hdur hstat
    refine ⟨?_, by simpa using hstat⟩
    rw [hdur]
    dsimp only
    split <;> omega

end Sys2Proof.Machine
end

section
/-! PROOFS. Dispatch and the arming of the timer (42_dispatch_executor R91, R92, R100): which compare events an armed period
is sure to fire, and one equation per mode of a dispatch. -/

namespace Sys2Proof.Machine

/-! A compare event whose offset is inside the period fires (43_pulse_sequencer R114). -/

theorem State.arm_fireDir_of_lt {s : State} {v : Nat} (h : s.tmr.cmpDir < v) : (s.arm v).tmr.fireDir = true := by
  simp [h]

theorem State.arm_fireStep_of_lt {s : State} {v : Nat} (h : s.tmr.cmpStep < v) : (s.arm v).tmr.fireStep = true := by
  simp [h]

/-- Settles O14: the fire bits are those of the armed timer, and every other field is the one `arm` writes. -/
theorem armProgramsOneShotPeriod : Obligations.ArmProgramsOneShotPeriod := by
  intro s v
  exact ⟨(s.arm v).tmr.fireDir, (s.arm v).tmr.fireStep, (s.arm v).draws, State.arm_fireDir_of_lt, State.arm_fireStep_of_lt,
    rfl⟩

/-! A dispatch, mode by mode (42_dispatch_executor R94). -/

theorem State.dispatch_ready {s : State} (h : s.opState = .ready) (ctx : Context) :
    s.dispatch ctx = .next { s with running := false } := by
  simp only [State.dispatch, h]

theorem State.dispatch_manualControl {s : State} (h : s.opState = .manualControl) (ctx : Context) :
    s.dispatch ctx =
      .next ({ s with running := true }.manualStep.2.execute { s with running := true }.manualStep.1) := by
  simp only [State.dispatch, h]

/-- With a whole record queued, the Step executed is the decoded one, in the state the fetch leaves. -/
theorem State.dispatch_runningProgram_cons {s : State} {b0 b1 b2 : Byte} {rest : List Byte}
    (h : s.opState = .runningProgram) (hf : s.fifo = b0 :: b1 :: b2 :: rest) (ctx : Context) :
    s.dispatch ctx = .next ({ s with running := true, fifo := rest, streamPos := s.streamPos + 3 }.execute
      (decodeStep s.cfg.flagLayout b0 b1 b2)) := by
  have hpop := popRecord_cons (s := { s with running := true }) hf
  simp only [State.dispatch, h] at hpop ⊢
  simp only [hpop, exec_eq, decodeRecord_toStep]

/-- Settles O25. -/
theorem readyDispatchStopsStepping : Obligations.ReadyDispatchStopsStepping :=
  fun _ ctx h => State.dispatch_ready h ctx

/-- Settles O26: each mode's dispatch takes its own producer's Step. -/
theorem dispatchSelectsTheProducer : Obligations.DispatchSelectsTheProducer :=
  ⟨fun _ ctx h => State.dispatch_manualControl h ctx,
    fun _ ctx _ _ _ _ h hf => State.dispatch_runningProgram_cons h hf ctx⟩

end Sys2Proof.Machine
end

section
/-! PROOFS. The pulse sequencer (43_pulse_sequencer R105 to R112): a turn of TIMER in each phase of a period, the compare events
as updates of the state, and the turn of CORE that serves one latch alone. -/

namespace Sys2Proof

/-- A triple is its values on the three axes. -/
theorem PerAxis.mk_get {α : Type} (p : PerAxis α) : (⟨p.get .x, p.get .y, p.get .z⟩ : PerAxis α) = p := rfl

namespace Machine

/-! The timer's turn (43_pulse_sequencer R104 to R107). -/

theorem timerStep_dir {s : State} (ha : s.tmr.armed = true) (hp : s.tmr.phase = .dir) : s.timerStep =
    some { s with tmr := { s.tmr with dirPend := s.tmr.dirPend || s.tmr.fireDir, phase := .step } } := by
  simp [State.timerStep, ha, hp]

theorem timerStep_step {s : State} (ha : s.tmr.armed = true) (hp : s.tmr.phase = .step) : s.timerStep =
    some { s with tmr := { s.tmr with stepPend := s.tmr.stepPend || s.tmr.fireStep, phase := .upd } } := by
  simp [State.timerStep, ha, hp]

theorem timerStep_upd {s : State} (ha : s.tmr.armed = true) (hp : s.tmr.phase = .upd) : s.timerStep =
    some { s with tmr := { s.tmr with updPend := true, armed := false, phase := .done } } := by
  simp [State.timerStep, ha, hp]

theorem timerStep_of_not_armed {s : State} (ha : s.tmr.armed = false) : s.timerStep = none := by
  simp [State.timerStep, ha]

/-- TIMER's turn, where it has a step enabled, is that step. -/
theorem step_timer {s t : State} {moves : List Move} (he : s.env = .timer :: moves)
    (ht : State.timerStep { s with env := moves } = some t) : step s = .next t := by
  rw [step_cons he, State.perform, ht, Option.getD_some]

/-- Settles O33: one equation of the timer's step per phase, and the one for a stopped timer. -/
theorem timerIssuesItsEventsInOrder : Obligations.TimerIssuesItsEventsInOrder := fun _ _ he =>
  ⟨fun ha hp => step_timer he (timerStep_dir ha hp), fun ha hp => step_timer he (timerStep_step ha hp),
    fun ha hp => step_timer he (timerStep_upd ha hp), timerStep_of_not_armed⟩

/-! The compare events as updates of the state. -/

/-- What the operation on one axis leaves of a state, the operation on every axis leaves: `write s t` is `s` with the written
fields taken from `t`. -/
theorem forAxes_frame {f : Axis → State → State} (write : State → State → State)
    (hcomp : ∀ s t u, write (write s t) u = write s u) (h : ∀ a s, f a s = write s (f a s)) (s : State) :
    forAxes f s = write s (forAxes f s) := by
  let x := f .x s
  let y := f .y x
  let z := f .z y
  calc z = write y z := h .z y
    _ = write (write x y) z := congrArg (write · z) (h .y x)
    _ = write x z := hcomp x y z
    _ = write (write s x) z := congrArg (write · z) (h .x s)
    _ = write s z := hcomp s x z

/-- DIR_EVENT writes the direction lines and the trace (43_pulse_sequencer R109). -/
theorem State.onDir_frame (s : State) :
    s.onDir = { s with dirLine := s.onDir.dirLine, trace := s.onDir.trace } :=
  forAxes_frame (fun s t => { s with dirLine := t.dirLine, trace := t.trace }) (fun _ _ _ => rfl)
    (fun _ _ => by split <;> rfl) s

/-- TRACK writes the position and the faults (43_pulse_sequencer R111). -/
theorem State.track_frame (s : State) (st : Step) :
    s.track st = { s with pos := (s.track st).pos, faults := (s.track st).faults } :=
  forAxes_frame (fun s t => { s with pos := t.pos, faults := t.faults }) (fun _ _ _ => rfl)
    (fun _ _ => by unfold State.trackAxis State.raiseFault; dsimp only; split_ifs <;> rfl) s

/-- Raising the step lines writes them and the trace (43_pulse_sequencer R110). -/
theorem State.forAxes_assertStep_frame (s : State) :
    let u := forAxes (fun a t => if t.curStep.step.get a then t.assertStep a else t) s
    u = { s with stepLine := u.stepLine, trace := u.trace } :=
  forAxes_frame (fun s t => { s with stepLine := t.stepLine, trace := t.trace }) (fun _ _ _ => rfl)
    (fun _ _ => by split <;> rfl) s

/-- STEP_EVENT writes the step lines, the trace, the position and the faults (43_pulse_sequencer R110). -/
theorem State.onStep_frame (s : State) : s.onStep = { s with
    stepLine := s.onStep.stepLine, trace := s.onStep.trace, pos := s.onStep.pos, faults := s.onStep.faults } := by
  rw [s.onStep_stepLine, s.onStep_trace]
  exact (State.track_frame _ _).trans
    (congrArg (fun u : State => { u with pos := s.onStep.pos, faults := s.onStep.faults }) s.forAxes_assertStep_frame)

/-- DIR_EVENT in full (43_pulse_sequencer R109). -/
theorem State.onDir_eq (s : State) : s.onDir = { s with
    dirLine := ⟨s.dirLine.x || (s.curStep.dir.x != s.cfg.dirPolarity.x),
      s.dirLine.y || (s.curStep.dir.y != s.cfg.dirPolarity.y), s.dirLine.z || (s.curStep.dir.z != s.cfg.dirPolarity.z)⟩
    trace := s.trace ++ ([Axis.x, .y, .z].filter fun a => s.curStep.dir.get a != s.cfg.dirPolarity.get a).map
      .dirAsserted } := by
  rw [s.onDir_frame, ← PerAxis.mk_get s.onDir.dirLine, onDir_trace]
  simp only [onDir_dirLine]
  rfl

/-- TRACK reads the position, the faults and the width only (43_pulse_sequencer R111). -/
theorem track_congr {s t : State} (hp : s.pos = t.pos) (hf : s.faults = t.faults) (hc : s.cfg = t.cfg) (st : Step) :
    (s.track st).pos = (t.track st).pos ∧ (s.track st).faults = (t.track st).faults := by
  simp only [State.track, forAxes, trackAxis_pos, trackAxis_faults, State.raiseFault_faults, trackAxis_cfg, hp, hf, hc,
    and_self]

/-- STEP_EVENT: the faults are the Position Tracker's (43_pulse_sequencer R110). -/
theorem onStep_faults (s : State) : s.onStep.faults = (s.track s.curStep).faults :=
  (track_congr (forAxes_keeps (·.pos) _ (fun a t => by split <;> simp) s)
    (forAxes_keeps (·.faults) _ (fun a t => by split <;> simp) s)
    (forAxes_keeps (·.cfg) _ (fun a t => by split <;> simp) s) _).2

/-- STEP_EVENT in full (43_pulse_sequencer R110). -/
theorem State.onStep_eq (s : State) : s.onStep = { s with
    stepLine := ⟨s.stepLine.x || s.curStep.step.x, s.stepLine.y || s.curStep.step.y, s.stepLine.z || s.curStep.step.z⟩
    trace := s.trace ++ ([Axis.x, .y, .z].filter fun a => s.curStep.step.get a).map .stepAsserted
    pos := (s.track s.curStep).pos
    faults := (s.track s.curStep).faults } := by
  rw [s.onStep_frame, ← PerAxis.mk_get s.onStep.stepLine, onStep_trace_eq, onStep_pos, onStep_faults]
  simp only [onStep_stepLine_get]
  rfl

/-! CORE's turn with one latch to serve (43_pulse_sequencer R108). -/

/-- CORE's turn with a latch set and nothing held is a handler invocation. -/
theorem step_core_of_latched {s : State} {moves : List Move} (hstall : s.stall = none) (hl : s.latched = true)
    (he : s.env = .core :: moves) : step s = State.handler { s with env := moves } := by
  rw [step_cons he, State.perform, coreStep_of_latched (s := { s with env := moves }) hstall hl, Option.getD_some]

/-- Settles O29: the handler serves the direction event alone, and its update of the state is the stated one. -/
theorem dirEventRaisesTheLines : Obligations.DirEventRaisesTheLines := by
  intro s moves hstall hd hs hu he
  have hl : s.latched = true := by simp [State.latched, hd]
  rw [step_core_of_latched hstall hl he, handler_dir_only (s := { s with env := moves }) hd hs hu, State.onDir_eq]

/-- Settles O30: the handler serves the step event alone, and the tracker makes the same of the state whose move and latch
are taken off. -/
theorem stepEventPulsesAndTracks : Obligations.StepEventPulsesAndTracks := by
  intro s moves hstall hd hs hu he
  have hl : s.latched = true := by simp [State.latched, hs]
  obtain ⟨hpos, hfaults⟩ := track_congr (s := { s with env := moves, tmr := { s.tmr with stepPend := false } }) (t := s)
    rfl rfl rfl s.curStep
  rw [step_core_of_latched hstall hl he, handler_step_only (s := { s with env := moves }) hd hs hu, State.onStep_eq,
    hpos, hfaults]

/-- Settles O32: the handler serves the update event alone. -/
theorem updateEventDispatches : Obligations.UpdateEventDispatches := by
  intro s moves hstall hd hs hu he
  have hl : s.latched = true := by simp [State.latched, hu]
  rw [step_core_of_latched hstall hl he, handler_update_only (s := { s with env := moves }) hd hs hu]

end Machine
end Sys2Proof
end

section
/-! PROOFS. The host interface (44_host_interface R118 to R127): when stepping is active, one equation per operation that has a
condition, and the turn of the host and of the converter. -/

namespace Sys2Proof.Machine

/-! The turns of the host and of the converter. -/

theorem step_host {s : State} {moves : List Move} {op : HostOp} (he : s.env = .host op :: moves) :
    step s = State.hostStep { s with env := moves } op := by
  rw [step_cons he, State.perform]

theorem step_adc {s : State} {moves : List Move} {ch : Channel} {v : Byte} (he : s.env = .adc ch v :: moves) :
    step s = .next (State.adcSample { s with env := moves } ch v) := by
  rw [step_cons he, State.perform]

/-! The guard (44_host_interface R118). -/

/-- `active` reads the stepping flag, the timer and the hold. -/
theorem State.active_iff (s : State) : s.active = true ↔
    s.running = true ∨ s.tmr.armed = true ∨ s.tmr.dirPend = true ∨ s.tmr.stepPend = true ∨ s.tmr.updPend = true ∨
      s.stall ≠ none := by
  simp only [State.active, Bool.or_eq_true, or_assoc, Option.isSome_iff_ne_none]

/-- Taking a move off the schedule does not change whether stepping is active. -/
@[simp] theorem State.active_withEnv (s : State) (moves : List Move) : State.active { s with env := moves } = s.active :=
  rfl

/-- Recording a fault in full: a fault already recorded is not recorded again (10_state R34). -/
theorem State.raiseFault_eq (s : State) (f : FaultRecord) :
    s.raiseFault f = { s with faults := if f ∈ s.faults then s.faults else s.faults ++ [f] } := by
  unfold State.raiseFault
  split <;> rfl

theorem State.hostStep_configure_of_active {s : State} (h : s.active = true) (c : ConfigureArgs) :
    s.hostStep (.configure c) = .next (s.raiseFault (.hostProtocol .configure)) := by
  rw [State.hostStep, if_pos h]

theorem State.hostStep_configure_of_inactive {s : State} (h : s.active = false) (c : ConfigureArgs) :
    s.hostStep (.configure c) = .next (s.configure c) := by
  rw [State.hostStep, if_neg (Bool.eq_false_iff.mp h)]

theorem State.hostStep_trigger_of_active {s : State} (h : s.active = true) :
    s.hostStep .trigger = .next (s.raiseFault (.hostProtocol .trigger)) := by
  rw [State.hostStep, if_pos h]

/-- Settles O36: the guard of both operations holds, and each records its own fault. -/
theorem guardedOperationsFaultWhileActive : Obligations.GuardedOperationsFaultWhileActive := by
  intro s moves op g hreason he hop
  have ha : State.active { s with env := moves } = true := s.active_iff.mpr hreason
  rw [step_host he]
  obtain ⟨⟨c, rfl⟩, rfl⟩ | ⟨rfl, rfl⟩ := hop
  · rw [State.hostStep_configure_of_active ha, State.raiseFault_eq]
  · rw [State.hostStep_trigger_of_active ha, State.raiseFault_eq]

/-- Settles O37: past its guard, CONFIGURE is the update of `params` and `mcs`. -/
theorem configureWritesTheConfiguration : Obligations.ConfigureWritesTheConfiguration := by
  intro s moves c ha he
  rw [step_host he, State.hostStep_configure_of_inactive (by rwa [State.active_withEnv])]
  rfl

/-! The operations without a guard. -/

/-- Settles O39: none of the operations reads a condition, so each is its one write, and the converter's that of its channel. -/
theorem freeOperationsWriteTheirFields : Obligations.FreeOperationsWriteTheirFields := fun _ _ =>
  ⟨fun _ he => step_host he, step_host, fun _ he => step_host he, step_host, step_host, fun _ he => step_adc he,
    fun _ he => step_adc he⟩

/-! PUSH and the room of the byte source (44_host_interface R123). -/

/-- The byte source has room unless it is bounded and at its capacity. -/
theorem State.hasRoom_iff (s : State) : s.hasRoom = true ↔ ∀ c, s.cfg.fifoCap = some c → s.fifo.length < c := by
  unfold State.hasRoom
  cases s.cfg.fifoCap with
  | none => simp
  | some c => simp

theorem State.hostStep_push_of_hasRoom {s : State} (h : s.hasRoom = true) (b : Byte) :
    s.hostStep (.push b) = .next (s.pushByte b) := by
  rw [State.hostStep, if_pos h]

/-- Settles O41: there is room, so the byte is appended. -/
theorem pushAppendsWhereThereIsRoom : Obligations.PushAppendsWhereThereIsRoom := by
  intro s moves b he hroom
  have hr : State.hasRoom { s with env := moves } = true := (State.hasRoom_iff _).mpr hroom
  rw [step_host he, State.hostStep_push_of_hasRoom hr]
  rfl

end Sys2Proof.Machine
end

section
/-! PROOFS. The state after reset (70_reset_and_hazards R144). -/

namespace Sys2Proof.Machine

/-- Settles O56: R144's values are those `State.resetWith` writes, with `PerAxis.all`, `Step.zero` and `Number.ofRat 0` written
out; the given arguments carry ZERO_INIT. -/
theorem resetValues : Obligations.ResetValues :=
  ⟨rfl, rfl, fun _ => rfl⟩

end Sys2Proof.Machine
end

section
/-! PROOFS. What the agents' moves can do, as equations of the state after them: the dispatch, the resume, the handler and the
operations of the host, each said once for the statements over every step. -/

namespace Sys2Proof

@[simp] theorem PerAxis.get_all {α : Type} (v : α) (a : Axis) : (PerAxis.all v).get a = v := by
  cases a <;> rfl

namespace Machine

/-- The state a dispatch makes: a Step is executed that the interpolator or the fetch gave, or the dispatch holds, or stepping
stops (42_dispatch_executor R91, R92, 20_memory R48). -/
theorem dispatch_outcomes {s t : State} {ctx : Context} (h : s.dispatch ctx = .next t) :
    (∃ st, t = { s with running := true }.manualStep.2.execute st) ∨
    (3 ≤ s.fifo.length ∧
      ∃ st, t = { s with running := true, fifo := s.fifo.drop 3, streamPos := s.streamPos + 3 }.execute st) ∨
    t = { s with running := true, stall := some ctx } ∨
    t = { s with running := false } := by
  rcases dispatch_cases s ctx with ⟨-, e⟩ | ⟨-, b0, b1, b2, rest, hf, e⟩ | ⟨-, -, e⟩ | ⟨-, e⟩ <;>
    rw [e, Host.Outcome.next.injEq] at h
  · exact .inl ⟨_, h.symm⟩
  · exact .inr (.inl ⟨by simp [hf], decodeStep s.cfg.flagLayout b0 b1 b2, by simp [← h, hf]⟩)
  · exact .inr (.inr (.inl h.symm))
  · exact .inr (.inr (.inr h.symm))

/-- The state a resume makes (43_pulse_sequencer R113). -/
theorem resume_outcome {s t : State} (hf : 3 ≤ s.fifo.length) (h : s.resume = .next t) :
    ∃ st, t =
      { s with stall := none, running := true, fifo := s.fifo.drop 3, streamPos := s.streamPos + 3 }.execute st := by
  obtain ⟨b0, b1, b2, rest, hcons, e⟩ := resume_eq hf
  rw [e, Host.Outcome.next.injEq] at h
  exact ⟨decodeStep s.cfg.flagLayout b0 b1 b2, by simp [← h, hcons]⟩

/-! The handler (43_pulse_sequencer R108). -/

/-- Serving the direction latch in full (43_pulse_sequencer R109). -/
theorem State.serveDir_eq (s : State) : s.serveDir = { s with
    tmr := { s.tmr with dirPend := false }
    dirLine := ⟨s.dirLine.x || (s.tmr.dirPend && s.curStep.dir.x != s.cfg.dirPolarity.x),
      s.dirLine.y || (s.tmr.dirPend && s.curStep.dir.y != s.cfg.dirPolarity.y),
      s.dirLine.z || (s.tmr.dirPend && s.curStep.dir.z != s.cfg.dirPolarity.z)⟩
    trace := s.trace ++ if s.tmr.dirPend then
      ([Axis.x, .y, .z].filter fun a => s.curStep.dir.get a != s.cfg.dirPolarity.get a).map .dirAsserted else [] } := by
  cases hp : s.tmr.dirPend with
  | true => simp [State.serveDir, hp, State.onDir_eq]
  | false =>
    have htmr : ({ s.tmr with dirPend := false } : Timer) = s.tmr := by rw [← hp]
    rw [serveDir_of_clear hp, htmr]
    simp

/-- Serving the step latch in full (43_pulse_sequencer R110). -/
theorem State.serveStep_eq (s : State) : s.serveStep = { s with
    tmr := { s.tmr with stepPend := false }
    stepLine := ⟨s.stepLine.x || (s.tmr.stepPend && s.curStep.step.x), s.stepLine.y || (s.tmr.stepPend && s.curStep.step.y),
      s.stepLine.z || (s.tmr.stepPend && s.curStep.step.z)⟩
    trace := s.trace ++ if s.tmr.stepPend then
      ([Axis.x, .y, .z].filter fun a => s.curStep.step.get a).map .stepAsserted else []
    pos := if s.tmr.stepPend then (s.track s.curStep).pos else s.pos
    faults := if s.tmr.stepPend then (s.track s.curStep).faults else s.faults } := by
  cases hp : s.tmr.stepPend with
  | true =>
    have htrack := track_congr (s := { s with tmr := { s.tmr with stepPend := false } }) (t := s) rfl rfl rfl s.curStep
    simp [State.serveStep, hp, State.onStep_eq, htrack]
  | false =>
    have htmr : ({ s.tmr with stepPend := false } : Timer) = s.tmr := by rw [← hp]
    rw [serveStep_of_clear hp, htmr]
    simp

/-- The state with its compare latches served (43_pulse_sequencer R108). -/
def State.served (s : State) : State := s.serveDir.serveStep

/-- Serving the compare latches in full: which lines rise, what the trace takes of it, and, if the step event was latched, the
Position Tracker's position and faults. -/
theorem State.served_eq (s : State) : s.served = { s with
    tmr := { s.tmr with dirPend := false, stepPend := false }
    dirLine := ⟨s.dirLine.x || (s.tmr.dirPend && s.curStep.dir.x != s.cfg.dirPolarity.x),
      s.dirLine.y || (s.tmr.dirPend && s.curStep.dir.y != s.cfg.dirPolarity.y),
      s.dirLine.z || (s.tmr.dirPend && s.curStep.dir.z != s.cfg.dirPolarity.z)⟩
    stepLine := ⟨s.stepLine.x || (s.tmr.stepPend && s.curStep.step.x), s.stepLine.y || (s.tmr.stepPend && s.curStep.step.y),
      s.stepLine.z || (s.tmr.stepPend && s.curStep.step.z)⟩
    trace := s.trace ++
      (if s.tmr.dirPend then
        ([Axis.x, .y, .z].filter fun a => s.curStep.dir.get a != s.cfg.dirPolarity.get a).map .dirAsserted else []) ++
      (if s.tmr.stepPend then ([Axis.x, .y, .z].filter fun a => s.curStep.step.get a).map .stepAsserted else [])
    pos := if s.tmr.stepPend then (s.track s.curStep).pos else s.pos
    faults := if s.tmr.stepPend then (s.track s.curStep).faults else s.faults } := by
  obtain ⟨hpos, hfaults⟩ := track_congr (s := s.serveDir) (t := s) (by simp) (by simp) (by simp) s.serveDir.curStep
  rw [State.served, State.serveStep_eq, hpos, hfaults, State.serveDir_eq]

@[simp] theorem State.served_tmr (s : State) : s.served.tmr = { s.tmr with dirPend := false, stepPend := false } := by
  rw [State.served_eq]

theorem State.served_pos (s : State) :
    s.served.pos = if s.tmr.stepPend then (s.track s.curStep).pos else s.pos := by
  rw [State.served_eq]

theorem State.served_faults (s : State) :
    s.served.faults = if s.tmr.stepPend then (s.track s.curStep).faults else s.faults := by
  rw [State.served_eq]

theorem served_dirLine_get (s : State) (a : Axis) : s.served.dirLine.get a =
    (s.dirLine.get a || (s.tmr.dirPend && (s.curStep.dir.get a != s.cfg.dirPolarity.get a))) := by
  rw [State.served_eq]
  cases a <;> rfl

theorem served_stepLine_get (s : State) (a : Axis) :
    s.served.stepLine.get a = (s.stepLine.get a || (s.tmr.stepPend && s.curStep.step.get a)) := by
  rw [State.served_eq]
  cases a <;> rfl

/-- The fields serving the compare latches reads. -/
def State.serveView (s : State) :=
  (s.pos, s.faults, s.cfg, s.curStep, s.dirLine, s.stepLine, s.trace, s.tmr.dirPend, s.tmr.stepPend)

/-- The state with the fields serving the compare latches writes as they are in another state with its latches served. -/
def State.takeServed (t s : State) : State :=
  { t with
    tmr := { t.tmr with dirPend := false, stepPend := false }
    dirLine := s.served.dirLine, stepLine := s.served.stepLine, trace := s.served.trace, pos := s.served.pos
    faults := s.served.faults }

/-- Serving the compare latches reads no other field and writes no other. -/
theorem served_congr {s t : State} (h : t.serveView = s.serveView) : t.served = t.takeServed s := by
  simp only [State.serveView, Prod.mk.injEq] at h
  obtain ⟨hpos, hfaults, hcfg, hcur, hdirLine, hstepLine, htrace, hdir, hstep⟩ := h
  obtain ⟨htrackPos, htrackFaults⟩ := track_congr hpos hfaults hcfg s.curStep
  rw [State.takeServed, State.served_eq s, State.served_eq t, hpos, hfaults, hcfg, hcur, hdirLine, hstepLine, htrace, hdir,
    hstep, htrackPos, htrackFaults]

/-- The state with its update latch cleared and `running` cleared, in which the update event dispatches
(43_pulse_sequencer R112). -/
def State.updated (s : State) : State := { s with tmr := { s.tmr with updPend := false }, running := false }

/-- A handler invocation serves the compare latches, and dispatches if the update event is latched. -/
theorem handler_eq (s : State) :
    s.handler = if s.tmr.updPend then s.served.updated.dispatch .isr else .next s.served := by
  have hupd : s.serveDir.serveStep.tmr.updPend = s.tmr.updPend := by simp
  rcases handler_cases s with ⟨hu, e⟩ | ⟨hu, e⟩ <;> rw [hupd] at hu <;> simp only [e, hu] <;> rfl

/-- The state a handler invocation makes, or dispatches in. -/
theorem handler_outcomes {s t : State} (h : s.handler = .next t) :
    (s.tmr.updPend = false ∧ t = s.served) ∨ (s.tmr.updPend = true ∧ s.served.updated.dispatch .isr = .next t) := by
  rw [handler_eq] at h
  split at h
  · next hu => exact .inr ⟨hu, h⟩
  · next hu => exact .inl ⟨by simpa using hu, (Host.Outcome.next.inj h).symm⟩

theorem State.latched_eq_false_iff (s : State) :
    s.latched = false ↔ s.tmr.dirPend = false ∧ s.tmr.stepPend = false ∧ s.tmr.updPend = false := by
  simp [State.latched, and_assoc]

/-- With no latch set, an invocation serves nothing. -/
theorem State.served_of_not_latched {s : State} (h : s.latched = false) : s.served = s := by
  obtain ⟨hd, hs, -⟩ := s.latched_eq_false_iff.mp h
  rw [State.served, serveDir_of_clear hd, serveStep_of_clear hs]

/-- After an invocation's compare events only an update can be latched. -/
@[simp] theorem State.served_latched (s : State) : s.served.latched = s.tmr.updPend := by
  simp [State.latched]

/-! The operations of the host. -/

/-- Stepping is not active exactly in a quiescent block (44_host_interface R118, 70_reset_and_hazards R148). -/
theorem State.active_eq_false_iff (s : State) : s.active = false ↔ s.Quiescent := by
  simp [State.active, State.Quiescent, State.latched, and_assoc]

/-- What a host operation that is no TRIGGER writes: the fields of its rule, or a fault where its guard holds. -/
inductive State.HostWrites (s : State) : HostOp → State → Prop
  | fault (c : ConfigureArgs) (ha : s.active = true) : s.HostWrites (.configure c) (s.raiseFault (.hostProtocol .configure))
  | configure (c : ConfigureArgs) (ha : s.active = false) : s.HostWrites (.configure c) (s.configure c)
  | setState (v : OpState) : s.HostWrites (.setState v) { s with opState := v }
  | calibrate : s.HostWrites .calibrate { s with mcs := { s.mcs with zero := s.raw } }
  | push (b : Byte) (hroom : s.hasRoom = true) : s.HostWrites (.push b) (s.pushByte b)
  | full (b : Byte) (hroom : s.hasRoom = false) : s.HostWrites (.push b) s
  | recordEvent (e : Event) : s.HostWrites (.recordEvent e) { s with lastEvent := some e }
  | read : s.HostWrites .read s
  | clearStatus : s.HostWrites .clearStatus { s with status := ⟨false, false⟩ }

/-- Everything a host operation can do: TRIGGER records a fault or dispatches, the others write the fields of their rule
(44_host_interface R118 to R126). -/
theorem hostStep_outcomes {s t : State} {op : HostOp} (h : s.hostStep op = .next t) :
    (op = .trigger ∧ s.active = true ∧ t = s.raiseFault (.hostProtocol .trigger)) ∨
    (op = .trigger ∧ s.active = false ∧ s.dispatch .fg = .next t) ∨ s.HostWrites op t := by
  cases op with
  | trigger =>
    rw [State.hostStep] at h
    split at h
    · next ha => exact .inl ⟨rfl, ha, (Host.Outcome.next.inj h).symm⟩
    · next ha => exact .inr (.inl ⟨rfl, by simpa using ha, h⟩)
  | configure c =>
    obtain rfl := Host.Outcome.next.inj h
    split
    · next ha => exact .inr (.inr (.fault c ha))
    · next ha => exact .inr (.inr (.configure c (by simpa using ha)))
  | push b =>
    obtain rfl := Host.Outcome.next.inj h
    split
    · next hroom => exact .inr (.inr (.push b hroom))
    · next hroom => exact .inr (.inr (.full b (by simpa using hroom)))
  | setState v => exact Host.Outcome.next.inj h ▸ .inr (.inr (.setState v))
  | calibrate => exact Host.Outcome.next.inj h ▸ .inr (.inr .calibrate)
  | recordEvent e => exact Host.Outcome.next.inj h ▸ .inr (.inr (.recordEvent e))
  | read => exact Host.Outcome.next.inj h ▸ .inr (.inr .read)
  | clearStatus => exact Host.Outcome.next.inj h ▸ .inr (.inr .clearStatus)

end Machine
end Sys2Proof
end

section
/-! PROOFS. Every step keeps the invariant: each agent's move keeps it, a dispatch being made only in a quiescent block. -/

namespace Sys2Proof.Machine

/-! What is held, latched and armed together. -/

/-- Nothing is held while a period is in flight (43_pulse_sequencer R113). -/
theorem State.Inv.stall_of_armed {s : State} (hi : s.Inv) (ha : s.tmr.armed = true) : s.stall = none := by
  by_contra hs
  obtain ⟨-, hstopped, -⟩ := hi.held hs
  simp [ha] at hstopped

/-- Nothing is held while a latch is set (43_pulse_sequencer R113). -/
theorem State.Inv.stall_of_latched {s : State} (hi : s.Inv) (hl : s.latched = true) : s.stall = none := by
  by_contra hs
  obtain ⟨-, -, hclear⟩ := hi.held hs
  simp [hl] at hclear

/-- An update latch is set only once the period has ended (43_pulse_sequencer R107). -/
theorem State.Inv.not_armed_of_updPend {s : State} (hi : s.Inv) (hu : s.tmr.updPend = true) : s.tmr.armed = false := by
  have hdone : s.tmr.phase = .done := by
    cases hp : s.tmr.phase with
    | dir => simpa [State.latched, hu] using hi.dirPhase hp
    | step => simpa [hu] using hi.stepPhase hp
    | upd => simpa [hu] using hi.updPhase hp
    | done => rfl
  simpa [hdone] using hi.armed_iff

/-! The timer. -/

theorem State.Inv.timerStep {s t : State} (hi : s.Inv) (h : s.timerStep = some t) : t.Inv := by
  obtain ⟨ha, ⟨hp, rfl⟩ | ⟨hp, rfl⟩ | ⟨hp, rfl⟩⟩ := timerStep_cases h
  · obtain ⟨hl, hdir, hstep⟩ := hi.dirPhase hp
    obtain ⟨-, hst, hu⟩ := s.latched_eq_false_iff.mp hl
    exact { hi with
      armed_iff := by simp [ha]
      dirPhase := nofun
      stepPhase := fun _ => ⟨hst, hu, hstep⟩
      updPhase := nofun
      latchOwned := fun _ => .inl ha
      held := fun hs => absurd (hi.stall_of_armed ha) hs }
  · obtain ⟨-, hu, -⟩ := hi.stepPhase hp
    exact { hi with
      armed_iff := by simp [ha]
      dirPhase := nofun
      stepPhase := nofun
      updPhase := fun _ => hu
      latchOwned := fun _ => .inl ha
      held := fun hs => absurd (hi.stall_of_armed ha) hs }
  · exact { hi with
      armed_iff := by simp
      onePulse := nofun
      dirPhase := nofun
      stepPhase := nofun
      updPhase := nofun
      latchOwned := fun _ => .inr rfl
      held := fun hs => absurd (hi.stall_of_armed ha) hs
      runningCycle := fun _ => hi.runningCycle (.inl ha)
      runningOwned := fun _ => .inr (.inl rfl)
      reloadOf := nofun
      dirFires := nofun
      stepFires := nofun
      reloadFits := nofun }

/-! The handler's compare events. -/

/-- TRACK keeps the faults a set (10_state R34). -/
theorem track_faults_nodup {s : State} (h : s.faults.Nodup) (st : Step) : (s.track st).faults.Nodup := by
  have haxis : ∀ (a : Axis) (u : State), u.faults.Nodup → (State.trackAxis st a u).faults.Nodup := by
    intro a u hu
    rw [trackAxis_faults]
    generalize u.pos.get a + (if st.dir.get a = true then 1 else -1) = v
    split
    · exact nodup_raiseFault hu
    · exact hu
  exact haxis .z _ (haxis .y _ (haxis .x _ h))

theorem State.Inv.served {s : State} (hi : s.Inv) : s.served.Inv where
  framed := by simpa [State.served] using hi.framed
  fits := by simpa [State.served] using hi.fits
  armed_iff := by simpa using hi.armed_iff
  onePulse := by simpa using hi.onePulse
  dirPhase := fun hp => by
    have hl := (hi.dirPhase (by simpa using hp)).1
    rw [State.served_of_not_latched hl] at hp ⊢
    exact hi.dirPhase hp
  stepPhase := fun hp => by
    obtain ⟨hs, hu, hlow⟩ := hi.stepPhase (by simpa using hp)
    have hserve : s.served = s.serveDir := serveStep_of_clear (by simpa using hs)
    rw [hserve]
    simpa using ⟨hs, hu, hlow⟩
  updPhase := by simpa using hi.updPhase
  latchOwned := fun hl => .inr (by simpa using hl)
  held := fun hs => by
    obtain ⟨hr, ha, hl⟩ := hi.held (by simpa [State.served] using hs)
    rw [State.served_of_not_latched hl]
    exact ⟨hr, ha, hl⟩
  runningCycle := by simpa [State.served] using hi.runningCycle
  runningOwned := by simpa [State.served] using hi.runningOwned
  reloadOf := by simpa [State.served, State.periodOf] using hi.reloadOf
  dirFires := by simpa using hi.dirFires
  stepFires := by simpa using hi.stepFires
  dirLines := fun a h => by
    have hor : s.dirLine.get a = true ∨
        s.tmr.dirPend = true ∧ s.curStep.dir.get a ≠ s.cfg.dirPolarity.get a := by
      simpa [served_dirLine_get] using h
    simpa [State.served] using hor.elim (hi.dirLines a) And.right
  stepLines := fun a h => by
    have hor : s.stepLine.get a = true ∨ s.tmr.stepPend = true ∧ s.curStep.step.get a = true := by
      simpa [served_stepLine_get] using h
    simpa [State.served] using hor.elim (hi.stepLines a) And.right
  faultSet := by
    rw [State.served_faults]
    split
    · exact track_faults_nodup hi.faultSet _
    · exact hi.faultSet
  reloadFits := by simpa [State.served] using hi.reloadFits
  posFits := fun a => by
    rw [State.served_pos, show s.served.cfg = s.cfg by simp [State.served]]
    split
    · exact track_fits hi.posFits _ a
    · exact hi.posFits a
  counterFits := by simpa [State.served] using hi.counterFits

/-- With its period over and its compare latches served, a block whose update latch is cleared with `running` is quiescent. -/
theorem State.Inv.updated {s : State} (hi : s.Inv) (hu : s.tmr.updPend = true)
    (hd : s.tmr.dirPend = false) (hs : s.tmr.stepPend = false) : s.updated.Inv ∧ s.updated.Quiescent := by
  have ha := hi.not_armed_of_updPend hu
  have hstall : s.stall = none := hi.stall_of_latched (by simp [State.latched, hu])
  have hl : s.updated.latched = false := by simp [State.latched, State.updated, hd, hs]
  have hdone : s.tmr.phase = .done := by simpa [ha] using hi.armed_iff
  refine ⟨{ hi with
    dirPhase := by simp [State.updated, hdone]
    stepPhase := by simp [State.updated, hdone]
    updPhase := by simp [State.updated]
    latchOwned := by simp [hl]
    held := by simp [State.updated, hstall]
    runningCycle := by simp [State.updated, ha]
    runningOwned := nofun }, rfl, ha, hl, hstall⟩

/-! A Step's execution and the dispatch. -/

/-- The clauses of the invariant that no period bears on. -/
structure State.Stored (s : State) : Prop where
  framed : s.streamPos % 3 = 0
  fits : ∀ c, s.cfg.fifoCap = some c → s.fifo.length ≤ c
  faultSet : s.faults.Nodup
  posFits : ∀ a, fitsSigned s.cfg.posWidth (s.pos.get a) = true
  counterFits : ∀ w, s.cfg.counterWidth = some w → s.mcs.n < 2 ^ w

theorem State.Inv.stored {s : State} (hi : s.Inv) : s.Stored := { hi with }

/-- Executing a Step at a dispatch's entry starts a period that meets the invariant. -/
theorem State.Stored.execute {s : State} (hs : s.Stored) (hr : s.running = true) (hstall : s.stall = none) (st : Step) :
    (s.execute st).Inv where
  framed := by simpa using hs.framed
  fits := by simpa using hs.fits
  armed_iff := by simp
  onePulse := by simp
  dirPhase := by simp [State.latched]
  stepPhase := by simp
  updPhase := by simp
  latchOwned := by simp
  held := by simp [hstall]
  runningCycle := by simp [hr]
  runningOwned := by simp
  reloadOf := by simp [State.periodOf]
  dirFires := by simp +contextual
  stepFires := by simp +contextual
  dirLines := by simp
  stepLines := by simp
  faultSet := by
    rw [State.execute_faults]
    split
    · exact nodup_raiseFault hs.faultSet
    · exact hs.faultSet
  reloadFits := by simpa using periodOf_lt s
  posFits := by simpa using hs.posFits
  counterFits := by simpa using hs.counterFits

/-- The fetch of a record keeps the stored clauses. -/
theorem State.Stored.fetch {s : State} (hs : s.Stored) (stall : Option Context) :
    State.Stored { s with stall := stall, running := true, fifo := s.fifo.drop 3, streamPos := s.streamPos + 3 } :=
  { hs with
    framed := by simpa using hs.framed
    fits := fun c hc => (by simp : (s.fifo.drop 3).length ≤ s.fifo.length).trans (hs.fits c hc) }

theorem State.Inv.dispatch {s t : State} {ctx : Context} (hi : s.Inv) (hq : s.Quiescent)
    (h : s.dispatch ctx = .next t) : t.Inv := by
  obtain ⟨hr, ha, hl, hstall⟩ := hq
  have hs := hi.stored
  obtain ⟨-, -, hu⟩ := s.latched_eq_false_iff.mp hl
  obtain ⟨st, rfl⟩ | ⟨-, st, rfl⟩ | rfl | rfl := dispatch_outcomes h
  · have hmanual : State.Stored { s with running := true }.manualStep.2 :=
      ⟨by simpa using hs.framed, by simpa using hs.fits, by simpa using hs.faultSet, by simpa using hs.posFits,
        by simpa using State.manualStep_counterFits (s := { s with running := true }) hs.counterFits⟩
    exact hmanual.execute (by simp) (by simpa using hstall) st
  · exact (hs.fetch s.stall).execute rfl hstall st
  · exact { hi with
      held := fun _ => ⟨rfl, ha, hl⟩
      runningCycle := by simp [ha, hu]
      runningOwned := fun _ => .inr (.inr nofun) }
  · exact { hi with
      held := by simp [hstall]
      runningCycle := by simp [ha, hu]
      runningOwned := nofun }

theorem State.Inv.handler {s t : State} (hi : s.Inv) (h : s.handler = .next t) : t.Inv := by
  obtain ⟨-, rfl⟩ | ⟨hu, hd⟩ := handler_outcomes h
  · exact hi.served
  · obtain ⟨hrest, hq⟩ := hi.served.updated (by simpa using hu) (by simp) (by simp)
    exact hrest.dispatch hq hd

theorem State.Inv.resume {s t : State} (hi : s.Inv) (hf : 3 ≤ s.fifo.length) (h : s.resume = .next t) : t.Inv := by
  obtain ⟨st, rfl⟩ := resume_outcome hf h
  exact (hi.stored.fetch none).execute rfl rfl st

/-! The host. -/

theorem State.Inv.raiseFault {s : State} (hi : s.Inv) (f : FaultRecord) : (s.raiseFault f).Inv := by
  rw [State.raiseFault_eq]
  exact { hi with faultSet := by simpa using nodup_raiseFault (f := f) hi.faultSet }

theorem State.Inv.pushByte {s : State} (hi : s.Inv) (hroom : s.hasRoom = true) (b : Byte) : (s.pushByte b).Inv :=
  { hi with fits := fun c hc => by simpa using s.hasRoom_iff.mp hroom c hc }

theorem State.Inv.hostStep {s t : State} (hi : s.Inv) {op : HostOp} (h : s.hostStep op = .next t) : t.Inv := by
  obtain ⟨-, -, rfl⟩ | ⟨-, ha, hd⟩ | hw := hostStep_outcomes h
  · exact hi.raiseFault _
  · exact hi.dispatch (s.active_eq_false_iff.mp ha) hd
  · cases hw with
    | fault => exact hi.raiseFault _
    | push b hroom => exact hi.pushByte hroom b
    | configure | setState | calibrate | full | recordEvent | read | clearStatus => exact { hi with }

/-- Settles O60: the timer, the handler, the resume, the host and the converter each keep the invariant, and it does not speak
of the schedule. -/
theorem everyStepKeepsTheInvariant : Obligations.EveryStepKeepsTheInvariant := by
  intro s t hi h
  have henv : ∀ e : List Move, State.Inv { s with env := e } := fun e => { hi with }
  refine step_induction h henv (fun _ _ hu => hu.timerStep) (fun _ _ hu _ _ => hu.handler)
    (fun _ _ hu _ hf => hu.resume hf) (fun _ e _ _ => (henv e).hostStep) (fun ch b e _ => ?_)
  cases ch <;> exact { henv e with }

end Sys2Proof.Machine
end

section
/-! PROOFS. What the block's own moves keep and only add to: one relation between the states before and after, met by every move
but those by which the host and the converter write their own fields. -/

namespace Sys2Proof.Machine

/-- What the block's own moves leave alone (the operating state, the event, the configuration, the samples) and what they only
add to (the faults, the trace, the status bits). -/
structure State.Runs (s t : State) : Prop where
  env : t.env = s.env
  opState : t.opState = s.opState
  lastEvent : t.lastEvent = s.lastEvent
  params : t.params = s.params
  raw : t.raw = s.raw
  cfg : t.cfg = s.cfg
  cmpDir : t.tmr.cmpDir = s.tmr.cmpDir
  cmpStep : t.tmr.cmpStep = s.tmr.cmpStep
  faults : s.faults ⊆ t.faults
  trace : s.trace <+: t.trace
  sRange : s.status.sRange = true → t.status.sRange = true
  sShort : s.status.sShort = true → t.status.sShort = true

theorem State.Runs.refl (s : State) : s.Runs s :=
  ⟨rfl, rfl, rfl, rfl, rfl, rfl, rfl, rfl, List.Subset.refl _, List.prefix_rfl, id, id⟩

theorem State.Runs.trans {s t u : State} (h : s.Runs t) (k : t.Runs u) : s.Runs u :=
  ⟨k.env.trans h.env, k.opState.trans h.opState, k.lastEvent.trans h.lastEvent, k.params.trans h.params,
    k.raw.trans h.raw, k.cfg.trans h.cfg, k.cmpDir.trans h.cmpDir, k.cmpStep.trans h.cmpStep,
    List.Subset.trans h.faults k.faults, h.trace.trans k.trace, k.sRange ∘ h.sRange, k.sShort ∘ h.sShort⟩

theorem runs_raiseFault (s : State) (f : FaultRecord) : s.Runs (s.raiseFault f) :=
  { State.Runs.refl s with
    env := by simp, opState := by simp, lastEvent := by simp, params := by simp, raw := by simp, cfg := by simp
    cmpDir := by simp, cmpStep := by simp, trace := by simp, sRange := by simp, sShort := by simp
    faults := fun g hg => (mem_raiseFault s f g).mpr (.inl hg) }

theorem runs_execute (s : State) (st : Step) : s.Runs (s.execute st) where
  env := by simp
  opState := by simp
  lastEvent := by simp
  params := by simp
  raw := by simp
  cfg := by simp
  cmpDir := by simp
  cmpStep := by simp
  faults := by
    rw [State.execute_faults]
    split
    · exact (runs_raiseFault s _).faults
    · exact List.Subset.refl _
  trace := by simp
  sRange := by simp +contextual
  sShort := by simp +contextual

theorem runs_manualStep (s : State) : s.Runs s.manualStep.2 := by
  unfold State.manualStep
  dsimp only
  split
  · exact { State.Runs.refl s with }
  · exact { State.Runs.refl s with sRange := by simp +contextual }

theorem track_faults_subset (s : State) (st : Step) : s.faults ⊆ (s.track st).faults := by
  have haxis : ∀ (a : Axis) (u : State), u.faults ⊆ (State.trackAxis st a u).faults :=
    fun a u f hf => (mem_trackAxis_faults st a u f).mpr (.inl hf)
  exact List.Subset.trans (haxis .x _) (List.Subset.trans (haxis .y _) (haxis .z _))

theorem runs_served (s : State) : s.Runs s.served where
  env := by simp [State.served]
  opState := by simp [State.served]
  lastEvent := by simp [State.served]
  params := by simp [State.served]
  raw := by simp [State.served]
  cfg := by simp [State.served]
  cmpDir := by simp
  cmpStep := by simp
  faults := by
    rw [State.served_faults]
    split
    · exact track_faults_subset s _
    · exact List.Subset.refl _
  trace := by rw [State.served_eq]; dsimp only; rw [List.append_assoc]; exact List.prefix_append _ _
  sRange := by simp [State.served]
  sShort := by simp [State.served]

theorem runs_dispatch {s t : State} {ctx : Context} (h : s.dispatch ctx = .next t) : s.Runs t := by
  obtain ⟨st, rfl⟩ | ⟨-, st, rfl⟩ | rfl | rfl := dispatch_outcomes h
  · have hrun : s.Runs { s with running := true }.manualStep.2 := { runs_manualStep { s with running := true } with }
    exact hrun.trans (runs_execute _ st)
  · exact { runs_execute _ st with }
  · exact { State.Runs.refl s with }
  · exact { State.Runs.refl s with }

theorem runs_handler {s t : State} (h : s.handler = .next t) : s.Runs t := by
  obtain ⟨-, rfl⟩ | ⟨-, hd⟩ := handler_outcomes h
  · exact runs_served s
  · exact (runs_served s).trans { runs_dispatch hd with }

theorem runs_resume {s t : State} (hf : 3 ≤ s.fifo.length) (h : s.resume = .next t) : s.Runs t := by
  obtain ⟨st, rfl⟩ := resume_outcome hf h
  exact { runs_execute _ st with }

theorem runs_timerStep {s t : State} (h : s.timerStep = some t) : s.Runs t := by
  obtain ⟨-, ⟨-, rfl⟩ | ⟨-, rfl⟩ | ⟨-, rfl⟩⟩ := timerStep_cases h <;> exact { State.Runs.refl s with }

/-- What a step changes, the schedule aside: it is a move of the block's own, or the host or the converter writes its fields. -/
theorem step_effects {s t : State} (h : step s = .next t) : ∃ e : List Move,
    State.Runs { s with env := e } t ∨
    (∃ op, s.env = .host op :: e ∧ State.HostWrites { s with env := e } op t) ∨
    (∃ ch b, s.env = .adc ch b :: e ∧ t = State.adcSample { s with env := e } ch b) := by
  obtain ⟨e, -, rfl | ht | ⟨-, -, hh⟩ | ⟨-, hf, hr⟩ | ⟨op, he, ho⟩ | ha⟩ := step_cases h
  · exact ⟨e, .inl (.refl _)⟩
  · exact ⟨e, .inl (runs_timerStep ht)⟩
  · exact ⟨e, .inl (runs_handler hh)⟩
  · exact ⟨e, .inl (runs_resume hf hr)⟩
  · obtain ⟨-, -, rfl⟩ | ⟨-, -, hd⟩ | hw := hostStep_outcomes ho
    · exact ⟨e, .inl (runs_raiseFault _ _)⟩
    · exact ⟨e, .inl (runs_dispatch hd)⟩
    · exact ⟨e, .inr (.inl ⟨op, he, hw⟩)⟩
  · exact ⟨e, .inr (.inr ha)⟩

/-! The rules of the whole machine that follow. -/

/-- Settles O45: among the moves that are not the block's own, SET_STATE alone writes `opState`. -/
theorem onlySetStateWritesOpState : Obligations.OnlySetStateWritesOpState := by
  intro s t h hne
  obtain ⟨e, hr | ⟨op, he, hw⟩ | ⟨ch, b, -, rfl⟩⟩ := step_effects h
  · exact absurd hr.opState hne
  · cases hw with
    | setState v => exact ⟨e, he⟩
    | fault => exact absurd (State.raiseFault_opState _ _) hne
    | configure | calibrate | push | full | recordEvent | read | clearStatus => exact absurd rfl hne
  · exact absurd (State.adcSample_opState _ ch b) hne

/-- Settles O46: the block's own moves and the guard of CONFIGURE only add faults. -/
theorem faultsAreNeverRemoved : Obligations.FaultsAreNeverRemoved := by
  intro s t h f hf
  obtain ⟨e, hr | ⟨op, -, hw⟩ | ⟨ch, b, -, rfl⟩⟩ := step_effects h
  · exact hr.faults hf
  · cases hw with
    | fault => exact (mem_raiseFault _ _ f).mpr (.inl hf)
    | setState | configure | calibrate | push | full | recordEvent | read | clearStatus => exact hf
  · rwa [State.adcSample_faults]

/-- Settles O47: the block's own moves append to the trace, and no other move writes it. -/
theorem traceIsAppendOnly : Obligations.TraceIsAppendOnly := by
  intro s t h
  obtain ⟨e, hr | ⟨op, -, hw⟩ | ⟨ch, b, -, rfl⟩⟩ := step_effects h
  · exact hr.trace
  · cases hw with
    | fault => simp
    | setState | configure | calibrate | push | full | recordEvent | read | clearStatus => exact List.prefix_rfl
  · simp

/-- Settles O48: the block's own moves only set status bits, and of the host's only CLEAR_STATUS writes them. -/
theorem statusBitsAreSticky : Obligations.StatusBitsAreSticky := by
  intro s t h hclear
  obtain ⟨e, hr | ⟨op, he, hw⟩ | ⟨ch, b, -, rfl⟩⟩ := step_effects h
  · exact ⟨hr.sRange, hr.sShort⟩
  · cases hw with
    | clearStatus => exact absurd he (hclear e)
    | fault => simp
    | setState | configure | calibrate | push | full | recordEvent | read => exact ⟨id, id⟩
  · simp

/-- Settles O53: no move of any agent writes the parameters fixed for a run. -/
theorem parametersAreFixed : Obligations.ParametersAreFixed := by
  intro s t h
  obtain ⟨e, hr | ⟨op, -, hw⟩ | ⟨ch, b, -, rfl⟩⟩ := step_effects h
  · exact ⟨hr.cfg, hr.cmpDir, hr.cmpStep⟩
  · cases hw with
    | fault => simp
    | setState | configure | calibrate | push | full | recordEvent | read | clearStatus => exact ⟨rfl, rfl, rfl⟩
  · simp

end Sys2Proof.Machine
end

section
/-! PROOFS. The byte stream and the position over a step (10_state R36, 43_pulse_sequencer R111). -/

namespace Sys2Proof.Machine

/-! The stream. -/

/-- The stream is as before, or a record has been removed from its front. -/
def State.Consumes (s t : State) : Prop :=
  (t.streamPos = s.streamPos ∧ t.fifo = s.fifo) ∨
  (t.streamPos = s.streamPos + 3 ∧ 3 ≤ s.fifo.length ∧ t.fifo = s.fifo.drop 3)

theorem consumes_dispatch {s t : State} {ctx : Context} (h : s.dispatch ctx = .next t) : s.Consumes t := by
  obtain ⟨st, rfl⟩ | ⟨hf, st, rfl⟩ | rfl | rfl := dispatch_outcomes h
  · exact .inl (by simp)
  · exact .inr (by simp [hf])
  · exact .inl ⟨rfl, rfl⟩
  · exact .inl ⟨rfl, rfl⟩

theorem consumes_resume {s t : State} (hf : 3 ≤ s.fifo.length) (h : s.resume = .next t) : s.Consumes t := by
  obtain ⟨st, rfl⟩ := resume_outcome hf h
  exact .inr (by simp [hf])

theorem consumes_handler {s t : State} (h : s.handler = .next t) : s.Consumes t := by
  obtain ⟨-, rfl⟩ | ⟨-, hd⟩ := handler_outcomes h
  · exact .inl (by simp [State.served])
  · simpa [State.Consumes, State.updated, State.served] using consumes_dispatch hd

/-- Settles O49: CORE and TRIGGER at most take a record from the front, PUSH appends its byte, and no other move touches the
stream. -/
theorem streamIsConsumedByRecords : Obligations.StreamIsConsumedByRecords := by
  intro s t h
  suffices hs : s.Consumes t ∨
      (t.streamPos = s.streamPos ∧ ∃ b moves, s.env = .host (.push b) :: moves ∧ t.fifo = s.fifo ++ [b]) by
    obtain (hkeep | htake) | hpush := hs
    · exact .inl hkeep
    · exact .inr (.inr htake)
    · exact .inr (.inl hpush)
  obtain ⟨e, -, rfl | ht | ⟨-, -, hh⟩ | ⟨-, hf, hr⟩ | ⟨op, he, ho⟩ | ⟨ch, b, -, rfl⟩⟩ := step_cases h
  · exact .inl (.inl ⟨rfl, rfl⟩)
  · obtain ⟨-, ⟨-, rfl⟩ | ⟨-, rfl⟩ | ⟨-, rfl⟩⟩ := timerStep_cases ht <;> exact .inl (.inl ⟨rfl, rfl⟩)
  · exact .inl (consumes_handler hh :)
  · exact .inl (consumes_resume (s := { s with env := e }) hf hr)
  · obtain ⟨-, -, rfl⟩ | ⟨-, -, hd⟩ | hw := hostStep_outcomes ho
    · exact .inl (.inl (by simp))
    · exact .inl (consumes_dispatch hd :)
    · cases hw with
      | push b => exact .inr ⟨rfl, b, e, he, rfl⟩
      | fault => exact .inl (.inl (by simp))
      | setState | configure | calibrate | full | recordEvent | read | clearStatus => exact .inl (.inl ⟨rfl, rfl⟩)
  · exact .inl (.inl (by simp))

/-! The position. -/

theorem pos_dispatch {s t : State} {ctx : Context} (h : s.dispatch ctx = .next t) : t.pos = s.pos := by
  obtain ⟨st, rfl⟩ | ⟨-, st, rfl⟩ | rfl | rfl := dispatch_outcomes h <;> simp

/-- A dispatch leaves no step latch set that was not. -/
theorem stepPend_dispatch {s t : State} {ctx : Context} (hs : s.tmr.stepPend = false) (h : s.dispatch ctx = .next t) :
    t.tmr.stepPend = false := by
  obtain ⟨st, rfl⟩ | ⟨-, st, rfl⟩ | rfl | rfl := dispatch_outcomes h <;> simp [hs]

theorem pos_handler {s t : State} (h : s.handler = .next t) : t.pos = s.served.pos ∧ t.tmr.stepPend = false := by
  obtain ⟨-, rfl⟩ | ⟨-, hd⟩ := handler_outcomes h
  · exact ⟨rfl, by simp⟩
  · exact ⟨(pos_dispatch hd :), stepPend_dispatch (by simp [State.updated]) hd⟩

theorem pos_hostStep {s t : State} {op : HostOp} (h : s.hostStep op = .next t) : t.pos = s.pos := by
  obtain ⟨-, -, rfl⟩ | ⟨-, -, hd⟩ | hw := hostStep_outcomes h
  · simp
  · exact pos_dispatch hd
  · cases hw with
    | fault => simp
    | setState | configure | calibrate | push | full | recordEvent | read | clearStatus => rfl

theorem pos_timerStep (s : State) : (s.timerStep.getD s).pos = s.pos := by
  cases h : s.timerStep with
  | none => rfl
  | some t => obtain ⟨-, ⟨-, rfl⟩ | ⟨-, rfl⟩ | ⟨-, rfl⟩⟩ := timerStep_cases h <;> rfl

/-- A turn of CORE, or the move made in its place where it has none. -/
theorem coreStep_getD_cases {s t w : State} (h : s.coreStep.getD (.next w) = .next t) :
    t = w ∨ (s.stall = none ∧ s.handler = .next t) ∨ (3 ≤ s.fifo.length ∧ s.resume = .next t) := by
  unfold State.coreStep at h
  split at h <;> split at h <;> simp_all

/-- A component moves only where the handler serves a latched step event of a stepping axis, and then as TRACK moves it. -/
theorem pos_coreStep {s t w : State} (hw : w.pos = s.pos) (h : s.coreStep.getD (.next w) = .next t) (a : Axis) :
    t.pos.get a = s.pos.get a ∨
      (s.tmr.stepPend = true ∧ t.tmr.stepPend = false ∧ s.stall = none ∧ s.curStep.step.get a = true ∧
        t.pos.get a = (s.pos.get a + if s.curStep.dir.get a then 1 else -1).bmod (2 ^ s.cfg.posWidth)) := by
  obtain rfl | ⟨hstall, hh⟩ | ⟨hf, hr⟩ := coreStep_getD_cases h
  · exact .inl (by rw [hw])
  · obtain ⟨hpos, hclear⟩ := pos_handler hh
    rw [hpos, State.served_pos]
    by_cases hp : s.tmr.stepPend = true
    · rw [if_pos hp, track_pos]
      by_cases ha : s.curStep.step.get a = true
      · rw [if_pos ha]
        exact .inr ⟨hp, hclear, hstall, ha, rfl⟩
      · exact .inl (if_neg ha)
    · exact .inl (by rw [if_neg hp])
  · obtain ⟨st, rfl⟩ := resume_outcome hf hr
    exact .inl (by simp)

/-- Settles O50: the timer, the host and the converter leave the position, so the move was CORE's. -/
theorem positionMovesOnlyByTracking : Obligations.PositionMovesOnlyByTracking := by
  intro s t h a
  cases henv : s.env with
  | nil =>
    rw [step_nil henv] at h
    exact (pos_coreStep (pos_timerStep s) h a).imp_right fun hmove => ⟨.inl rfl, hmove⟩
  | cons m moves =>
    rw [step_cons henv] at h
    cases m with
    | core =>
      have hcore := pos_coreStep (s := { s with env := moves }) (w := { s with env := moves }) rfl h a
      exact hcore.imp_right fun hmove => ⟨.inr ⟨moves, rfl⟩, hmove⟩
    | timer => exact .inl (by rw [← Host.Outcome.next.inj h, pos_timerStep])
    | host op => exact .inl (by rw [pos_hostStep h])
    | adc ch v => exact .inl (by rw [← Host.Outcome.next.inj h, State.adcSample_pos])

end Sys2Proof.Machine
end

section
/-! PROOFS. Quiescence and the periods (70_reset_and_hazards R148, 43_pulse_sequencer R116). -/

namespace Sys2Proof.Machine

/-- Settles O54: in a quiescent block TIMER and CORE have no step, and no operation but TRIGGER writes any of the fields. -/
theorem quiescentUntilTriggered : Obligations.QuiescentUntilTriggered := by
  intro s t hq htrigger h
  obtain ⟨hr, ha, hl, hs⟩ := hq
  obtain ⟨e, -, rfl | ht | ⟨-, hlatch, -⟩ | ⟨hstall, -, -⟩ | ⟨op, he, ho⟩ | ⟨ch, b, -, rfl⟩⟩ := step_cases h
  · exact ⟨⟨hr, ha, hl, hs⟩, rfl, rfl, rfl, rfl, rfl, rfl, rfl⟩
  · exact absurd (timerStep_cases ht).1 (by simp [ha])
  · simp [hl] at hlatch
  · exact absurd hs hstall
  · obtain ⟨rfl, -⟩ | ⟨rfl, -⟩ | hw := hostStep_outcomes ho
    · exact absurd he (htrigger e)
    · exact absurd he (htrigger e)
    · cases hw with
      | fault => simp_all [State.Quiescent, State.latched]
      | setState | configure | calibrate | push | full | recordEvent | read | clearStatus =>
        exact ⟨⟨hr, ha, hl, hs⟩, rfl, rfl, rfl, rfl, rfl, rfl, rfl⟩
  · simp_all [State.Quiescent, State.latched]

/-! No move arms a period while one is in flight. -/

/-- No period is armed between the two states, and the Step and the reload are the same. -/
structure State.KeepsPeriod (s t : State) : Prop where
  armings : t.trace.countP TraceEvent.isArmed = s.trace.countP TraceEvent.isArmed
  curStep : t.curStep = s.curStep
  reload : t.tmr.reload = s.tmr.reload

theorem keepsPeriod_served (s : State) : s.KeepsPeriod s.served where
  armings := by
    rw [State.served_eq]
    dsimp only
    split <;> split <;> simp [TraceEvent.isArmed]
  curStep := by simp [State.served]
  reload := by simp

/-- A dispatch arms a period with every latch clear, or leaves the trace as it is. -/
theorem dispatch_arms {s t : State} {ctx : Context} (h : s.dispatch ctx = .next t) :
    t.trace = s.trace ∨ (t.tmr.armed = true ∧ t.latched = false) := by
  obtain ⟨st, rfl⟩ | ⟨-, st, rfl⟩ | rfl | rfl := dispatch_outcomes h
  · exact .inr (by simp [State.latched])
  · exact .inr (by simp [State.latched])
  · exact .inl rfl
  · exact .inl rfl

/-- A step leaves the period in flight as it is, or none is in flight and it dispatches or resumes. -/
theorem State.Inv.step_period {s t : State} (hi : s.Inv) (h : step s = .next t) : s.KeepsPeriod t ∨
    (s.tmr.armed = false ∧ (t.trace.countP TraceEvent.isArmed = s.trace.countP TraceEvent.isArmed ∨
      (t.tmr.armed = true ∧ t.latched = false))) := by
  obtain ⟨e, -, rfl | ht | ⟨-, -, hh⟩ | ⟨hs, hf, hr⟩ | ⟨op, -, ho⟩ | ⟨ch, b, -, rfl⟩⟩ := step_cases h
  · exact .inl ⟨rfl, rfl, rfl⟩
  · obtain ⟨-, ⟨-, rfl⟩ | ⟨-, rfl⟩ | ⟨-, rfl⟩⟩ := timerStep_cases ht <;> exact .inl ⟨rfl, rfl, rfl⟩
  · have hserved := keepsPeriod_served { s with env := e }
    obtain ⟨-, rfl⟩ | ⟨hu, hd⟩ := handler_outcomes hh
    · exact .inl { hserved with }
    · have hcount : t.trace = _ ∨ _ := dispatch_arms hd
      exact .inr ⟨hi.not_armed_of_updPend hu, hcount.imp_left fun htr => by rw [htr]; exact hserved.armings⟩
  · obtain ⟨st, rfl⟩ := resume_outcome (s := { s with env := e }) hf hr
    obtain ⟨-, hstopped, -⟩ := hi.held hs
    exact .inr ⟨hstopped, .inr (by simp [State.latched])⟩
  · obtain ⟨-, -, rfl⟩ | ⟨-, ha, hd⟩ | hw := hostStep_outcomes ho
    · exact .inl ⟨by simp, by simp, by simp⟩
    · obtain ⟨-, harmed, -⟩ := (State.active_eq_false_iff _).mp ha
      exact .inr ⟨harmed, (dispatch_arms hd).imp_left fun htr => by rw [htr]⟩
    · cases hw with
      | fault => exact .inl ⟨by simp, by simp, by simp⟩
      | setState | configure | calibrate | push | full | recordEvent | read | clearStatus =>
        exact .inl ⟨rfl, rfl, rfl⟩
  · exact .inl ⟨by simp, by simp, by simp⟩

/-- Settles O55: a step arms a period only where none is in flight, by executing a Step. -/
theorem periodsNeverOverlap : Obligations.PeriodsNeverOverlap := by
  intro s t hi h
  obtain ⟨hcount, hcur, hreload⟩ | ⟨ha, hcount⟩ := hi.step_period h
  · exact ⟨fun _ => ⟨hcount, hcur, hreload⟩, fun hne => absurd hcount hne⟩
  · refine ⟨fun harmed => by simp [ha] at harmed, fun hne => ?_⟩
    obtain ⟨harmed, hl⟩ := hcount.resolve_left hne
    exact ⟨ha, harmed, hl⟩

end Sys2Proof.Machine
end

section
/-! PROOFS. Step records in plain facts (30_encoding R62, R64, R67, 40_step_record R69). -/

namespace Sys2Proof

/-- Settles O2: the record is the one the decoder's Step is. -/
theorem everyRecordDecodes : Obligations.EveryRecordDecodes := fun l b0 b1 b2 _ =>
  ⟨decodeRecord l b0 b1 b2, rfl, (decodeStep l b0 b1 b2).toInstr_wf, decodeRecord_toStep l b0 b1 b2⟩

/-- The low 16 bits of the word are 0 exactly where the duration is. -/
theorem recordWord_low_eq_zero_iff (b0 b1 b2 : Byte) : recordWord b0 b1 b2 % 2 ^ 16 = 0 ↔ recordDuration b0 b1 = 0 := by
  rw [recordWord_mod_two_pow_16]
  exact BitVec.toNat_inj (y := 0#16)

/-- Settles O4: the low 16 bits are the duration, by which the Step is a STOP or a STEP. -/
theorem durationSelectsTheForm : Obligations.DurationSelectsTheForm := by
  intro l b0 b1 b2
  rw [ne_eq, recordWord_low_eq_zero_iff]
  exact ⟨fun h => if_pos h, fun h => if_neg h⟩

/-- Settles O6: the decoder evaluated on the five words. -/
theorem specWordsDecode : Obligations.SpecWordsDecode := by
  unfold Obligations.SpecWordsDecode
  decide

/-- Settles O7: STOP and NOP are by definition Steps without an axis; the rest is the encoder evaluated. -/
theorem recordNotation : Obligations.RecordNotation :=
  ⟨by decide, fun _ => rfl, fun _ _ => rfl, by decide⟩

namespace Machine

/-- A short stream gives no record (20_memory R48). -/
theorem popRecord_short {s : State} (h : s.fifo.length < 3) : s.popRecord = none := by
  rcases popRecord_cases s with ⟨b0, b1, b2, rest, hf, -⟩ | ⟨-, hp⟩
  · simp only [hf, List.length_cons] at h
    omega
  · exact hp

/-- Settles O8: the fetch takes the three bytes' record, whose Step is the decoder's. -/
theorem fetchRemovesOneRecord : Obligations.FetchRemovesOneRecord :=
  ⟨fun _ b0 b1 b2 _ hf => ⟨_, popRecord_cons hf, decodeRecord_toStep _ b0 b1 b2⟩, fun _ => popRecord_short⟩

end Machine
end Sys2Proof
end

section
/-! PROOFS. What a record does at its dispatch (40_step_record R71, R72, 42_dispatch_executor R96 to R102), in full. -/

namespace Sys2Proof.Machine

/-- EXECUTE writes the fields its rules name (42_dispatch_executor R97 to R102). -/
theorem State.execute_frame (s : State) (st : Step) : s.execute st = { s with
    running := (s.execute st).running, dirLine := .all false, stepLine := .all false, curStep := st
    faults := (s.execute st).faults, tmr := (s.execute st).tmr, status := (s.execute st).status
    trace := s.trace ++ [.linesReset, .armed (s.periodOf st)], draws := s.draws + 2 } := by
  rw [State.execute, State.startIdle, State.raiseFault_eq]
  split
  · next h =>
    rw [show s.periodOf st = s.cfg.idleReload from if_pos h]
    split <;> simp [State.arm, State.resetLines]
  · next h =>
    rw [show s.periodOf st = (scale s.cfg.rangePolicy s.cfg.timerWidth st.duration st.activeAxes).value from if_neg h]
    simp [State.startCycle, State.arm, State.resetLines, State.noteRange]

/-- A zero-duration Step with a step flag records F_STOP_STEP where it is not in the set yet (42_dispatch_executor R102). -/
theorem State.execute_faults_eq (s : State) (st : Step) : (s.execute st).faults =
    if st.duration = 0 ∧ (st.step.x || st.step.y || st.step.z) = true ∧ FaultRecord.stopStep st ∉ s.faults
    then s.faults ++ [.stopStep st] else s.faults := by
  rw [State.execute_faults, State.raiseFault_faults, Step.pulses]
  split_ifs <;> tauto

/-- Settles O15: EXECUTE writes the fields of `execute_frame`, and the two branches differ in the period, `running`, the
faults and S_RANGE. -/
theorem executeCommitsTheStep : Obligations.ExecuteCommitsTheStep := by
  intro s st
  refine ⟨(s.arm (s.periodOf st)).tmr.fireDir, (s.arm (s.periodOf st)).tmr.fireStep, s.draws + 2, ?_⟩
  intro v
  have hv : v.value = s.periodOf st := by
    unfold State.periodOf
    exact apply_ite Narrowed.value _ _ _
  rw [hv, State.execute_frame, State.execute_faults_eq]
  refine ⟨State.arm_fireDir_of_lt, State.arm_fireStep_of_lt, ?_⟩
  by_cases h : st.duration = 0#16
  · simp [h, v, State.isShort, PerAxis.all]
  · simp [h, bne_iff_ne.mpr h, v, State.isShort, PerAxis.all, Step.activeAxes]

/-- Settles O9: STOP executes the Step of duration 0. -/
theorem stopRecordEffect : Obligations.StopRecordEffect := by
  intro dirs steps s
  obtain ⟨fd, fs, n, hd, hs, he⟩ := executeCommitsTheStep { s with running := true } ⟨0, dirs, steps⟩
  refine ⟨fd, fs, n, hd, hs, ?_⟩
  rw [exec_eq, Instr.toStep, he]
  simp

/-- Settles O10: STEP executes the Step of its duration. -/
theorem stepRecordEffect : Obligations.StepRecordEffect := by
  intro d dirs steps s hdur
  obtain ⟨fd, fs, n, hd, hs, he⟩ := executeCommitsTheStep { s with running := true } ⟨d, dirs, steps⟩
  have hne : (d != 0) = true := by simpa using hdur
  simp only [hdur, if_false, false_and, hne, Bool.and_true] at hd hs he
  refine ⟨fd, fs, n, hd, hs, ?_⟩
  rw [exec_eq, Instr.toStep, he]

end Sys2Proof.Machine
end

section
/-! PROOFS. The ways into a dispatch (42_dispatch_executor R91, 43_pulse_sequencer R112, R113, 44_host_interface R121), and the
turns that pass (log 2). -/

namespace Sys2Proof.Machine

/-- A dispatch of a program with a whole record queued runs the record (42_dispatch_executor R91). -/
theorem State.dispatch_runningProgram_exec {s : State} {b0 b1 b2 : Byte} {rest : List Byte}
    (h : s.opState = .runningProgram) (hf : s.fifo = b0 :: b1 :: b2 :: rest) (ctx : Context) :
    s.dispatch ctx = exec (decodeRecord s.cfg.flagLayout b0 b1 b2)
      { s with running := true, fifo := rest, streamPos := s.streamPos + 3 } := by
  rw [State.dispatch_runningProgram_cons h hf, exec_eq, decodeRecord_toStep]

/-- The resume of a held dispatch with a whole record queued runs it (43_pulse_sequencer R113). -/
theorem State.resume_exec {s : State} {b0 b1 b2 : Byte} {rest : List Byte} (hf : s.fifo = b0 :: b1 :: b2 :: rest) :
    s.resume = exec (decodeRecord s.cfg.flagLayout b0 b1 b2)
      { s with stall := none, fifo := rest, streamPos := s.streamPos + 3 } := by
  have hpop := popRecord_cons (s := { s with stall := none }) hf
  simp only [State.resume, hpop]

/-- CORE's turn with a dispatch held and enough bytes queued is its resume. -/
theorem coreStep_of_held {s : State} (hs : s.stall ≠ none) (hf : 3 ≤ s.fifo.length) : s.coreStep = some s.resume := by
  obtain ⟨ctx, hctx⟩ := Option.ne_none_iff_exists'.mp hs
  simp [State.coreStep, hctx, hf]

/-- CORE's turn with a dispatch held and too few bytes queued. -/
theorem coreStep_of_starved {s : State} (hs : s.stall ≠ none) (hf : s.fifo.length < 3) : s.coreStep = none := by
  obtain ⟨ctx, hctx⟩ := Option.ne_none_iff_exists'.mp hs
  simp [State.coreStep, hctx, hf]

/-- A held dispatch with a whole record queued runs it when CORE moves. -/
theorem step_core_of_held {s : State} {b0 b1 b2 : Byte} {rest : List Byte} {moves : List Move} (hs : s.stall ≠ none)
    (hf : s.fifo = b0 :: b1 :: b2 :: rest) (he : s.env = .core :: moves) :
    step s = exec (decodeRecord s.cfg.flagLayout b0 b1 b2)
      { s with env := moves, stall := none, fifo := rest, streamPos := s.streamPos + 3 } := by
  have hcore := coreStep_of_held (s := { s with env := moves }) hs (by simp [hf])
  rw [step_cons he, State.perform, hcore, Option.getD_some]
  exact State.resume_exec (s := { s with env := moves }) hf

theorem State.hostStep_trigger_of_inactive {s : State} (h : s.active = false) : s.hostStep .trigger = s.dispatch .fg := by
  rw [State.hostStep, if_neg (Bool.eq_false_iff.mp h)]

/-- Settles O38: past its guard TRIGGER is the dispatch. -/
theorem triggerRunsTheDispatch : Obligations.TriggerRunsTheDispatch := by
  intro s moves ha he
  rw [step_host he, State.hostStep_trigger_of_inactive (by rwa [State.active_withEnv])]

/-- Settles O12: the resume fetches by itself, the trigger and the update event through their dispatch. -/
theorem stepRunsTheDecodedRecord : Obligations.StepRunsTheDecodedRecord := by
  intro s b0 b1 b2 rest moves hf
  refine ⟨fun ctx hs he => step_core_of_held (by simp [hs]) hf he, fun ha ho he => ?_, fun hs hd hst hu ho he => ?_⟩
  · rw [triggerRunsTheDispatch s moves ha he]
    exact State.dispatch_runningProgram_exec (s := { s with env := moves }) ho hf .fg
  · rw [updateEventDispatches s moves hs hd hst hu he]
    exact State.dispatch_runningProgram_exec
      (s := { s with env := moves, tmr := { s.tmr with updPend := false }, running := false }) ho hf .isr

/-- Settles O13: the state `withFetchWord` makes holds a dispatch on the word's three bytes. -/
theorem fetchedWordRuns : Obligations.FetchedWordRuns := by
  intro s nbits w i hl hi
  have hrec : decodeRecord .default (BitVec.ofNat 8 (w % 2 ^ nbits)) (BitVec.ofNat 8 (w % 2 ^ nbits / 2 ^ 8))
      (BitVec.ofNat 8 (w % 2 ^ nbits / 2 ^ 16)) = i := Option.some.inj hi
  rw [step_core_of_held (s := s.withFetchWord nbits w) (moves := s.env) nofun rfl rfl]
  simp only [State.withFetchWord, hl, hrec]
  rfl

/-- Settles O27: the fetch gives nothing. -/
theorem shortStreamHolds : Obligations.ShortStreamHolds := by
  intro s ctx ho hf
  have hpop := popRecord_short (s := { s with running := true }) hf
  simp only [State.dispatch, ho] at hpop ⊢
  rw [hpop]

/-- Settles O42: none of the four agents has a step enabled. -/
theorem turnPassesWhereNothingIsEnabled : Obligations.TurnPassesWhereNothingIsEnabled := by
  intro s moves
  refine ⟨fun he hs hl => ?_, fun he hs hf => ?_, fun he ha => ?_, fun b c he hcap hfull => ?_⟩
  · rw [step_cons he, State.perform, coreStep_of_clear (s := { s with env := moves }) hs hl]
    rfl
  · rw [step_cons he, State.perform, coreStep_of_starved (s := { s with env := moves }) hs hf]
    rfl
  · rw [step_cons he, State.perform, timerStep_of_not_armed (s := { s with env := moves }) ha]
    rfl
  · have hroom : State.hasRoom { s with env := moves } = false := by simp [State.hasRoom, hcap, hfull]
    rw [step_host he, State.hostStep, hroom]
    rfl

/-! Every step goes on (60_exceptions R130). -/

theorem dispatch_goesOn (s : State) (ctx : Context) : ∃ t, s.dispatch ctx = .next t := by
  obtain ⟨-, e⟩ | ⟨-, b0, b1, b2, rest, -, e⟩ | ⟨-, -, e⟩ | ⟨-, e⟩ := dispatch_cases s ctx <;> exact ⟨_, e⟩

theorem handler_goesOn (s : State) : ∃ t, s.handler = .next t := by
  obtain ⟨-, e⟩ | ⟨-, e⟩ := handler_cases s
  · exact ⟨_, e⟩
  · rw [e]
    exact dispatch_goesOn _ _

theorem coreStep_goesOn (s w : State) : ∃ t, s.coreStep.getD (.next w) = .next t := by
  unfold State.coreStep
  split
  · split
    · exact handler_goesOn s
    · exact ⟨w, rfl⟩
  · split
    · next hf =>
      obtain ⟨b0, b1, b2, rest, -, e⟩ := resume_eq hf
      exact ⟨_, e⟩
    · exact ⟨w, rfl⟩

theorem hostStep_goesOn (s : State) (op : HostOp) : ∃ t, s.hostStep op = .next t := by
  cases op with
  | trigger =>
    rw [State.hostStep]
    split
    · exact ⟨_, rfl⟩
    · exact dispatch_goesOn s .fg
  | configure | setState | calibrate | push | recordEvent | read | clearStatus => exact ⟨_, rfl⟩

/-- Settles O44: the handler, the resume and the host's operations end in a dispatch, an execution or a write, and each of these
answers a next state. -/
theorem everyStepGoesOn : Obligations.EveryStepGoesOn := by
  intro s
  cases he : s.env with
  | nil => rw [step_nil he]; exact coreStep_goesOn s _
  | cons m moves =>
    rw [step_cons he]
    cases m with
    | core => exact coreStep_goesOn _ _
    | host op => exact hostStep_goesOn _ op
    | timer | adc => exact ⟨_, rfl⟩

end Sys2Proof.Machine
end

section
/-! PROOFS. What is read and written: the answer of READ (44_host_interface R125), what MANUAL_STEP writes
(41_step_interpolator R85), and the state after reset (70_reset_and_hazards R144, R145). -/

namespace Sys2Proof.Machine

/-- The status word holds each bit at its number (60_exceptions R132). -/
theorem Status.word_bits (st : Status) : st.word.getLsbD 0 = st.sRange ∧ st.word.getLsbD 1 = st.sShort := by
  obtain ⟨r, h⟩ := st
  cases r <;> cases h <;> decide

/-- Settles O40. -/
theorem readShowsTheListedFields : Obligations.ReadShowsTheListedFields := fun s => ⟨rfl, s.status.word_bits⟩

/-- Step 4 writes the vector and the counter (41_step_interpolator R78). -/
theorem ManualControlStatus.retarget_frame (ar : Arithmetic) (c : ManualControlStatus) (v : PerChannel Number) :
    c.retarget ar v = { c with n := (c.retarget ar v).n, last := (c.retarget ar v).last } := by
  rcases c.retarget_cases ar v with e | e <;> rw [e]

/-- Settles O23: a call at rest keeps step 4's state, and one with a magnitude writes the counter, the coordinates and S_RANGE
over it. -/
theorem manualStepFrame : Obligations.ManualStepFrame := by
  intro s
  unfold State.manualStep
  dsimp only
  rw [s.mcs.retarget_frame]
  split
  · exact ⟨_, _, _, _, false, _, by rw [Bool.or_false]⟩
  · exact ⟨_, _, _, _, _, _, rfl⟩

/-- Settles O57: the defaults of `BlockConfig.given`. -/
theorem givenParameters : Obligations.GivenParameters := rfl

/-- Settles O58: the timer is not armed and no latch is set, so neither CORE nor TIMER has a step, and nothing is scheduled. -/
theorem nothingRunsAfterReset : Obligations.NothingRunsAfterReset := fun _ => ⟨rfl, rfl, rfl, rfl, rfl⟩

/-- Settles O59: nothing is armed, latched, held or running, and every counter is 0. -/
theorem invariantHoldsAfterReset : Obligations.InvariantHoldsAfterReset := by
  intro a
  have hlow : ∀ axis, (PerAxis.all false).get axis ≠ true := by simp
  constructor
  case posFits => exact fun axis => (PerAxis.get_all (0 : Coord) axis).symm ▸ fitsSigned_zero _
  case counterFits => exact fun w _ => Nat.two_pow_pos w
  case fits => exact fun c _ => Nat.zero_le c
  case dirLines => exact fun axis h => absurd h (hlow axis)
  case stepLines => exact fun axis h => absurd h (hlow axis)
  all_goals simp [State.resetWith, State.latched]

end Sys2Proof.Machine
end

section
/-! PROOFS. The Position Tracker, axis by axis (43_pulse_sequencer R111). -/

namespace Sys2Proof.Machine

/-- A fault is in the set after TRACK iff it was before, or an axis steps out of its range (43_pulse_sequencer R111). -/
theorem mem_track_faults (s : State) (st : Step) (f : FaultRecord) : f ∈ (s.track st).faults ↔ f ∈ s.faults ∨
    ∃ a, f = .posOverflow a ∧ st.step.get a = true ∧
      fitsSigned s.cfg.posWidth (s.pos.get a + if st.dir.get a then 1 else -1) = false := by
  have hother : ∀ (a b : Axis) (u : State), a ≠ b → (State.trackAxis st a u).pos.get b = u.pos.get b := by
    intro a b u hab
    rw [trackAxis_pos]
    split
    · rw [pos_get_set, if_neg hab]
    · rfl
  have haxes : ∀ p : Axis → Prop, (∃ a, p a) ↔ p .x ∨ p .y ∨ p .z :=
    fun p => ⟨fun ⟨a, h⟩ => by cases a <;> simp [h], by rintro (h | h | h) <;> exact ⟨_, h⟩⟩
  simp only [State.track, forAxes, mem_trackAxis_faults, trackAxis_cfg, haxes, or_assoc,
    hother .x .y _ (by decide), hother .x .z _ (by decide), hother .y .z _ (by decide)]

theorem fitsSigned_eq_false_iff (w : Nat) (v : Int) :
    fitsSigned w v = false ↔ v < -2 ^ (w - 1) ∨ 2 ^ (w - 1) - 1 < v := by
  rw [fitsSigned, decide_eq_false_iff_not, not_and_or, not_le, not_le]

/-- Settles O31: each axis is tracked by itself. -/
theorem trackMovesEachSteppingAxisByOne : Obligations.TrackMovesEachSteppingAxisByOne := by
  intro s st
  refine ⟨s.track_frame st, fun a ha => ?_, fun a ha => ?_, fun f => ?_⟩
  · rw [track_pos, ha]
    rfl
  · rw [track_pos, if_pos ha, wrapSigned]
  · simp only [mem_track_faults, fitsSigned_eq_false_iff]

end Sys2Proof.Machine
end

section
/-! PROOFS. Runs of several steps, and the boot order (70_reset_and_hazards R147). -/

namespace Sys2Proof.Machine

theorem run_succ {s t : State} (h : step s = .next t) (n : Nat) : core.run (n + 1) s = core.run n t := by
  have hstep : core.step s = .next t := h
  simp [Host.Core.run, hstep]

/-- No step but goes on, so a run of one step is that step (60_exceptions R130). -/
theorem run_one (s : State) : core.run 1 s = step s := by
  obtain ⟨t, ht⟩ := everyStepGoesOn s
  rw [run_succ ht, ht]
  rfl

/-- A turn of the host with SET_STATE (44_host_interface R120). -/
theorem step_setState {s : State} {moves : List Move} {v : OpState} (he : s.env = .host (.setState v) :: moves) :
    step s = .next { s with env := moves, opState := v } := step_host he

/-- A turn of the host with CALIBRATE (44_host_interface R122). -/
theorem step_calibrate {s : State} {moves : List Move} (he : s.env = .host .calibrate :: moves) :
    step s = .next { s with env := moves, mcs := { s.mcs with zero := s.raw } } := step_host he

/-- Settles O43: CONFIGURE passes its guard, the two writes leave the block inactive, and so TRIGGER's dispatch fetches the
record. -/
theorem bootOrderStartsTheProgram : Obligations.BootOrderStartsTheProgram := by
  intro s c b0 b1 b2 rest moves ha hf he
  rw [run_succ (configureWritesTheConfiguration s _ c ha he), run_succ (step_calibrate rfl), run_succ (step_setState rfl),
    run_one]
  refine (triggerRunsTheDispatch _ moves ?_ rfl).trans ?_
  · exact ha
  · exact State.dispatch_runningProgram_exec (by rfl) (by exact hf) .fg

end Sys2Proof.Machine
end

section
/-! PROOFS. What a step does not read (10_state R24, R26, 20_memory R53): a change of the unread fields before the step is the
same change after it. -/

namespace Sys2Proof.Machine

/-! The unread fields. -/

/-- The state with other values of the fields no execution of a Step reads: the operating state, the event, and the parameters'
speed and acceleration. -/
def State.relabel (op : OpState → OpState) (ev : Option Event → Option Event) (speed accel : ConfigReal → ConfigReal)
    (s : State) : State :=
  { s with
    opState := op s.opState
    lastEvent := ev s.lastEvent
    params := { s.params with maxSpeed := speed s.params.maxSpeed, maxAccel := accel s.params.maxAccel } }

section Relabel

variable (op : OpState → OpState) (ev : Option Event → Option Event) (speed accel : ConfigReal → ConfigReal)

theorem execute_relabel (s : State) (st : Step) :
    (s.relabel op ev speed accel).execute st = (s.execute st).relabel op ev speed accel := by
  rw [State.execute, State.execute, State.startIdle, State.startIdle, State.raiseFault_eq, State.raiseFault_eq]
  split
  · split <;> rfl
  · rfl

theorem raiseFault_relabel (s : State) (f : FaultRecord) :
    (s.relabel op ev speed accel).raiseFault f = (s.raiseFault f).relabel op ev speed accel := by
  rw [State.raiseFault_eq, State.raiseFault_eq]
  rfl

theorem manualStep_relabel (s : State) : (s.relabel op ev speed accel).manualStep =
    (s.manualStep.1, s.manualStep.2.relabel op ev speed accel) := by
  have har : (s.relabel op ev speed accel).arithmetic = s.arithmetic := rfl
  have hdef : (s.relabel op ev speed accel).deflection = s.deflection := rfl
  unfold State.manualStep
  dsimp only
  rw [har, hdef]
  split <;> rfl

theorem served_relabel (s : State) : (s.relabel op ev speed accel).served = s.served.relabel op ev speed accel := by
  rw [served_congr (t := s.relabel op ev speed accel) (s := s) rfl, served_congr (t := s) (s := s) rfl]
  rfl

theorem exec_relabel {i : Instr} {s t : State} (h : exec i s = .next t) :
    exec i (s.relabel op ev speed accel) = .next (t.relabel op ev speed accel) := by
  rw [exec_eq] at h ⊢
  rw [← Host.Outcome.next.inj h, ← execute_relabel]
  rfl

theorem resume_relabel {s t : State} (hf : 3 ≤ s.fifo.length) (h : s.resume = .next t) :
    (s.relabel op ev speed accel).resume = .next (t.relabel op ev speed accel) := by
  obtain ⟨b0, b1, b2, rest, hcons, -⟩ := resume_eq hf
  rw [State.resume_exec hcons] at h
  rw [State.resume_exec (s := s.relabel op ev speed accel) hcons]
  exact exec_relabel op ev speed accel h

/-! A step that reads the operating state leaves the rest of the unread fields unread. -/

theorem dispatch_relabel {s t : State} {ctx : Context} (h : s.dispatch ctx = .next t) :
    (s.relabel id ev speed accel).dispatch ctx = .next (t.relabel id ev speed accel) := by
  rcases dispatch_cases s ctx with ⟨ho, e⟩ | ⟨ho, b0, b1, b2, rest, hf, -⟩ | ⟨ho, hf, e⟩ | ⟨ho, e⟩
  · rw [← Host.Outcome.next.inj (e.symm.trans h), ← execute_relabel, State.dispatch_manualControl (by exact ho)]
    exact congrArg (fun p : Step × State => Host.Outcome.next (p.2.execute p.1))
      (manualStep_relabel id ev speed accel { s with running := true })
  · rw [State.dispatch_runningProgram_exec ho hf] at h
    rw [State.dispatch_runningProgram_exec (s := s.relabel id ev speed accel) ho hf]
    exact exec_relabel id ev speed accel h
  · rw [← Host.Outcome.next.inj (e.symm.trans h)]
    exact shortStreamHolds (s.relabel id ev speed accel) ctx ho hf
  · rw [← Host.Outcome.next.inj (e.symm.trans h)]
    exact State.dispatch_ready (s := s.relabel id ev speed accel) ho ctx

theorem handler_relabel {s t : State} (h : s.handler = .next t) :
    (s.relabel id ev speed accel).handler = .next (t.relabel id ev speed accel) := by
  rw [handler_eq] at h ⊢
  rw [served_relabel]
  cases hu : s.tmr.updPend with
  | true =>
    rw [hu, if_pos rfl] at h
    exact (if_pos hu).trans (dispatch_relabel ev speed accel h)
  | false =>
    rw [hu, if_neg (by simp)] at h
    rw [← Host.Outcome.next.inj h]
    exact if_neg (Bool.eq_false_iff.mp hu)

theorem timerStep_relabel (s : State) :
    (s.relabel op ev speed accel).timerStep = s.timerStep.map (State.relabel op ev speed accel) := by
  unfold State.timerStep State.relabel
  dsimp only
  split
  · split <;> rfl
  · rfl

theorem coreStep_relabel {s w t : State} (h : s.coreStep.getD (.next w) = .next t) :
    (s.relabel id ev speed accel).coreStep.getD (.next (w.relabel id ev speed accel)) =
      .next (t.relabel id ev speed accel) := by
  by_cases hs : s.stall = none
  · cases hl : s.latched with
    | true =>
      rw [coreStep_of_latched hs hl] at h
      rw [coreStep_of_latched (s := s.relabel id ev speed accel) hs hl]
      exact handler_relabel ev speed accel h
    | false =>
      rw [coreStep_of_clear hs hl] at h
      rw [coreStep_of_clear (s := s.relabel id ev speed accel) hs hl, ← Host.Outcome.next.inj h]
      rfl
  · by_cases hf : 3 ≤ s.fifo.length
    · rw [coreStep_of_held hs hf] at h
      rw [coreStep_of_held (s := s.relabel id ev speed accel) hs hf]
      exact resume_relabel id ev speed accel hf h
    · rw [coreStep_of_starved hs (Nat.lt_of_not_le hf)] at h
      rw [coreStep_of_starved (s := s.relabel id ev speed accel) hs (Nat.lt_of_not_le hf), ← Host.Outcome.next.inj h]
      rfl

/-- The host's operations, where those that write an unread field write a value the change keeps. -/
theorem hostStep_relabel {s t : State} {o : HostOp} (hev : ∀ e, o = .recordEvent e → ev (some e) = some e)
    (hcfg : ∀ c, o = .configure c → speed c.maxSpeed = c.maxSpeed ∧ accel c.maxAccel = c.maxAccel)
    (h : s.hostStep o = .next t) :
    (s.relabel id ev speed accel).hostStep o = .next (t.relabel id ev speed accel) := by
  obtain ⟨rfl, ha, rfl⟩ | ⟨rfl, ha, hd⟩ | hw := hostStep_outcomes h
  · rw [State.hostStep_trigger_of_active (by exact ha), raiseFault_relabel]
  · rw [State.hostStep_trigger_of_inactive (by exact ha)]
    exact dispatch_relabel ev speed accel hd
  · cases hw with
    | fault c ha => rw [State.hostStep_configure_of_active (by exact ha), raiseFault_relabel]
    | configure c ha =>
      obtain ⟨hspeed, haccel⟩ := hcfg c rfl
      rw [State.hostStep_configure_of_inactive (by exact ha)]
      simp [State.relabel, State.configure, hspeed, haccel]
    | recordEvent e => simp [State.hostStep, State.relabel, hev e rfl]
    | push b hroom => exact State.hostStep_push_of_hasRoom (s := s.relabel id ev speed accel) hroom b
    | full b hroom => exact congrArg Host.Outcome.next (if_neg (Bool.eq_false_iff.mp hroom))
    | setState | calibrate | read | clearStatus => rfl

/-- A step answers the same with other values of the unread fields, unless the host writes them over. -/
theorem step_relabel {s t : State} (hev : ∀ e moves, s.env = .host (.recordEvent e) :: moves → ev (some e) = some e)
    (hcfg : ∀ c moves, s.env = .host (.configure c) :: moves →
      speed c.maxSpeed = c.maxSpeed ∧ accel c.maxAccel = c.maxAccel)
    (h : step s = .next t) : step (s.relabel id ev speed accel) = .next (t.relabel id ev speed accel) := by
  have htimer : ∀ u : State, (u.relabel id ev speed accel).timerStep.getD (u.relabel id ev speed accel) =
      (u.timerStep.getD u).relabel id ev speed accel := by
    intro u
    rw [timerStep_relabel, Option.getD_map]
  cases he : s.env with
  | nil =>
    rw [step_nil he] at h
    rw [step_nil (s := s.relabel id ev speed accel) he, State.runAlone, htimer]
    exact coreStep_relabel ev speed accel h
  | cons m moves =>
    rw [step_cons he] at h
    rw [step_cons (s := s.relabel id ev speed accel) he]
    cases m with
    | core => exact coreStep_relabel (s := { s with env := moves }) ev speed accel h
    | timer =>
      rw [State.perform, Host.Outcome.next.injEq] at h
      rw [← h]
      exact congrArg Host.Outcome.next (htimer { s with env := moves })
    | host o =>
      exact hostStep_relabel (s := { s with env := moves }) ev speed accel (fun e ho => hev e moves (ho ▸ he))
        (fun c ho => hcfg c moves (ho ▸ he)) h
    | adc ch v =>
      rw [State.perform, Host.Outcome.next.injEq] at h
      rw [← h]
      cases ch <;> rfl

end Relabel

/-! The statements. -/

/-- Settles O28: CORE resumes the held dispatch or passes, and neither reads `opState`. -/
theorem heldDispatchIgnoresOpState : Obligations.HeldDispatchIgnoresOpState := by
  intro s t v moves hs he h
  rw [step_cons he, State.perform] at h
  rw [step_cons (s := { s with opState := v }) he, State.perform]
  by_cases hf : 3 ≤ s.fifo.length
  · rw [coreStep_of_held (s := { s with env := moves }) hs hf] at h
    rw [coreStep_of_held (s := { s with opState := v, env := moves }) hs hf]
    exact resume_relabel (s := { s with env := moves }) (fun _ => v) id id id hf h
  · rw [coreStep_of_starved (s := { s with env := moves }) hs (Nat.lt_of_not_le hf)] at h
    rw [coreStep_of_starved (s := { s with opState := v, env := moves }) hs (Nat.lt_of_not_le hf)]
    rw [← Host.Outcome.next.inj h]
    rfl

/-- Settles O51: the block's own moves and the other operations keep `lastEvent`, and no move reads it. -/
theorem lastEventIsNotConsumed : Obligations.LastEventIsNotConsumed := by
  intro s t e hne h
  refine ⟨?_, step_relabel (fun _ => e) id id (fun ev moves he => absurd he (hne ev moves)) (fun _ _ _ => ⟨rfl, rfl⟩) h⟩
  obtain ⟨moves, hr | ⟨op, he, hw⟩ | ⟨ch, b, -, rfl⟩⟩ := step_effects h
  · exact hr.lastEvent
  · cases hw with
    | recordEvent ev => exact absurd he (hne ev moves)
    | fault => simp
    | setState | configure | calibrate | push | full | read | clearStatus => rfl
  · simp

/-- Settles O52: no move but CONFIGURE touches the two parameters. -/
theorem maxSpeedAndAccelAreNotRead : Obligations.MaxSpeedAndAccelAreNotRead := fun _ _ v a hne =>
  step_relabel id (fun _ => v) (fun _ => a) (fun _ _ _ => rfl) (fun c moves he => absurd he (hne c moves))

end Sys2Proof.Machine
end

section
/-! PROOFS. A period's events through its whole run (43_pulse_sequencer R108, R115): served by one invocation or by several, and
in their order. -/

namespace Sys2Proof.Machine

/-! The timer's writes. -/

/-- The timer has issued the direction event (43_pulse_sequencer R105). -/
def State.dirIssued (s : State) : State :=
  { s with tmr := { s.tmr with dirPend := s.tmr.dirPend || s.tmr.fireDir, phase := .step } }

/-- The timer has issued the step event (43_pulse_sequencer R106). -/
def State.stepIssued (s : State) : State :=
  { s with tmr := { s.tmr with stepPend := s.tmr.stepPend || s.tmr.fireStep, phase := .upd } }

/-- The timer has issued the update event, and the period is over (43_pulse_sequencer R107). -/
def State.updIssued (s : State) : State :=
  { s with tmr := { s.tmr with updPend := true, armed := false, phase := .done } }

/-! An invocation before the period's end serves what an invocation after it would. -/

theorem served_served (s : State) : s.served.served = s.served := by
  have hd : s.served.tmr.dirPend = false := by simp
  have hs : s.served.tmr.stepPend = false := by simp
  rw [State.served, serveDir_of_clear hd, serveStep_of_clear hs]

theorem served_withEnv (s : State) (moves : List Move) :
    State.served { s with env := moves } = { s.served with env := moves } := by
  rw [served_congr (t := { s with env := moves }) (s := s) rfl, served_congr (t := s) (s := s) rfl]
  rfl

theorem served_updIssued (s : State) : s.updIssued.served = s.served.updIssued := by
  rw [served_congr (t := s.updIssued) (s := s) rfl, served_congr (t := s) (s := s) rfl]
  rfl

/-- With no step event latched yet, serving the direction event first makes no difference. -/
theorem served_stepIssued_served {s : State} (h : s.tmr.stepPend = false) :
    s.served.stepIssued.served = s.stepIssued.served := by
  have hserved : s.served = s.serveDir := serveStep_of_clear (by simpa using h)
  have hdir : s.stepIssued.serveDir = s.serveDir.stepIssued := by
    rw [State.serveDir_eq, State.serveDir_eq]
    rfl
  have hclear : s.serveDir.stepIssued.tmr.dirPend = false := by simp [State.stepIssued]
  rw [hserved, State.served, State.served, hdir, serveDir_of_clear hclear]

theorem served_updIssued_served (s : State) : s.served.updIssued.served = s.updIssued.served := by
  rw [served_updIssued, served_updIssued, served_served]

/-! CORE's turns within a period. -/

/-- The state after a number of CORE's turns in a row. -/
def State.afterTurns (s : State) : Nat → State
  | 0 => s
  | _ + 1 => s.served

/-- A turn of CORE before the period's end, with nothing held, serves the compare latches. -/
theorem step_core_serves {s : State} {moves : List Move} (hs : s.stall = none) (hu : s.tmr.updPend = false)
    (he : s.env = .core :: moves) : step s = .next { s.served with env := moves } := by
  cases hl : s.latched with
  | true =>
    have hhandler := handler_eq { s with env := moves }
    rw [step_core_of_latched hs hl he, hhandler, served_withEnv]
    exact if_neg (Bool.eq_false_iff.mp hu)
  | false =>
    rw [State.served_of_not_latched hl]
    exact (turnPassesWhereNothingIsEnabled s moves).1 he hs hl

theorem run_core_turns (n : Nat) (moves : List Move) : ∀ (k : Nat) (s : State), s.stall = none → s.tmr.updPend = false →
    core.run (k + n) { s with env := List.replicate k .core ++ moves } = core.run n { s.afterTurns k with env := moves } := by
  intro k
  induction k with
  | zero => intro s _ _; simp [State.afterTurns]
  | succ k ih =>
    intro s hs hu
    have hstep := step_core_serves (s := { s with env := List.replicate (k + 1) .core ++ moves })
      (moves := List.replicate k .core ++ moves) hs hu rfl
    rw [served_withEnv] at hstep
    rw [Nat.add_right_comm, run_succ hstep]
    refine (ih s.served ?_ ?_).trans ?_
    · simpa [State.served] using hs
    · simpa using hu
    · cases k with
      | zero => rfl
      | succ k => simp only [State.afterTurns, served_served]

@[simp] theorem State.afterTurns_stall (s : State) (k : Nat) : (s.afterTurns k).stall = s.stall := by
  cases k <;> simp [State.afterTurns, State.served]

/-- CORE's turns leave the timer to its period, but for the compare latches. -/
theorem State.afterTurns_tmr (s : State) (k : Nat) : (s.afterTurns k).tmr.armed = s.tmr.armed ∧
    (s.afterTurns k).tmr.phase = s.tmr.phase ∧ (s.afterTurns k).tmr.updPend = s.tmr.updPend := by
  cases k <;> simp [State.afterTurns]

theorem afterTurns_stepIssued_served {s : State} (h : s.tmr.stepPend = false) (k : Nat) :
    (s.afterTurns k).stepIssued.served = s.stepIssued.served := by
  cases k with
  | zero => rfl
  | succ k => exact served_stepIssued_served h

theorem afterTurns_updIssued_served (s : State) (k : Nat) : (s.afterTurns k).updIssued.served = s.updIssued.served := by
  cases k with
  | zero => rfl
  | succ k => exact served_updIssued_served s

theorem run_dirIssued {s : State} (ha : s.tmr.armed = true) (hp : s.tmr.phase = .dir) (n : Nat) (moves : List Move) :
    core.run (n + 1) { s with env := .timer :: moves } = core.run n { s.dirIssued with env := moves } :=
  run_succ (step_timer (s := { s with env := .timer :: moves }) rfl (timerStep_dir (by exact ha) hp)) n

theorem run_stepIssued {s : State} (ha : s.tmr.armed = true) (hp : s.tmr.phase = .step) (n : Nat) (moves : List Move) :
    core.run (n + 1) { s with env := .timer :: moves } = core.run n { s.stepIssued with env := moves } :=
  run_succ (step_timer (s := { s with env := .timer :: moves }) rfl (timerStep_step (by exact ha) hp)) n

theorem run_updIssued {s : State} (ha : s.tmr.armed = true) (hp : s.tmr.phase = .upd) (n : Nat) (moves : List Move) :
    core.run (n + 1) { s with env := .timer :: moves } = core.run n { s.updIssued with env := moves } :=
  run_succ (step_timer (s := { s with env := .timer :: moves }) rfl (timerStep_upd (by exact ha) hp)) n

/-- A period's three events and CORE's turns end in the dispatch of one state, however many of CORE's turns fall after the
first and the second event. -/
theorem run_period {s : State} (ha : s.tmr.armed = true) (hp : s.tmr.phase = .dir) (hl : s.latched = false)
    (hs : s.stall = none) (moves : List Move) (k l : Nat) :
    core.run (k + l + 4) { s with
      env := .timer :: (List.replicate k .core ++ .timer :: (List.replicate l .core ++ .timer :: .core :: moves)) } =
      State.dispatch { s.dirIssued.stepIssued.updIssued.served.updated with env := moves } .isr := by
  obtain ⟨-, hstep, hupd⟩ := s.latched_eq_false_iff.mp hl
  let s1 := s.dirIssued.afterTurns k
  obtain ⟨ha1, hp1, hu1⟩ := s.dirIssued.afterTurns_tmr k
  let s2 := s1.stepIssued.afterTurns l
  obtain ⟨ha2, hp2, hu2⟩ := s1.stepIssued.afterTurns_tmr l
  have hs1 : s1.stall = none := (s.dirIssued.afterTurns_stall k).trans hs
  have hs2 : s2.stall = none := (s1.stepIssued.afterTurns_stall l).trans hs1
  have hserved : s2.updIssued.served = s.dirIssued.stepIssued.updIssued.served := by
    rw [afterTurns_updIssued_served, served_updIssued, afterTurns_stepIssued_served (by exact hstep), ← served_updIssued]
  have hlatched : State.latched { s2.updIssued with env := .core :: moves } = true := by simp [State.latched, State.updIssued]
  rw [show k + l + 4 = k + (l + 3) + 1 by omega]
  refine (run_dirIssued ha hp _ _).trans ((run_core_turns (l + 3) _ k s.dirIssued hs hupd).trans ?_)
  refine (run_stepIssued (s := s1) (ha1.trans ha) hp1 _ _).trans
    ((run_core_turns 2 _ l s1.stepIssued hs1 (hu1.trans hupd)).trans ?_)
  refine (run_updIssued (s := s2) (ha2.trans (ha1.trans ha)) hp2 _ _).trans ((run_one _).trans ?_)
  refine (step_core_of_latched (s := { s2.updIssued with env := .core :: moves }) (by exact hs2) hlatched rfl).trans
    ((handler_eq { s2.updIssued with env := moves }).trans ?_)
  rw [served_withEnv, hserved]
  rfl

/-- Settles O34: neither number of turns matters to the state the update event dispatches in. -/
theorem oneInvocationServesAsThree : Obligations.OneInvocationServesAsThree := fun _ moves k l ha hp hl hs =>
  (run_period ha hp hl hs moves k l).trans (run_period ha hp hl hs moves 0 0).symm

/-! A period in which each event is served at once. -/

/-- With nothing scheduled and nothing to serve, the timer moves (log 1). -/
theorem step_alone_timer {s t : State} (he : s.env = []) (hs : s.stall = none) (hl : s.latched = false)
    (ht : s.timerStep = some t) : step s = .next t := by
  rw [step_nil he, State.runAlone, coreStep_of_clear hs hl, ht]
  rfl

/-- With nothing scheduled and a latch set, CORE moves (log 1). -/
theorem step_alone_handler {s : State} (he : s.env = []) (hs : s.stall = none) (hl : s.latched = true) :
    step s = s.handler := by
  rw [step_nil he, State.runAlone, coreStep_of_latched hs hl]
  rfl

/-- An event the timer issues in a block that runs alone is served by the next step. -/
theorem run_event {s t : State} (he : s.env = []) (hs : s.stall = none) (hl : s.latched = false)
    (ht : s.timerStep = some t) (hte : t.env = []) (hts : t.stall = none) (htl : t.latched = true)
    (htu : t.tmr.updPend = false) (n : Nat) : core.run (n + 2) s = core.run n t.served := by
  have hserve : step t = .next t.served := by
    rw [step_alone_handler hte hts htl, handler_eq, htu, if_neg (by simp)]
  exact (run_succ (step_alone_timer he hs hl ht) (n + 1)).trans (run_succ hserve n)

/-- The end of a period in a block that runs alone is a dispatch in the next step but one. -/
theorem run_end {s : State} (he : s.env = []) (hs : s.stall = none) (hl : s.latched = false) (ha : s.tmr.armed = true)
    (hp : s.tmr.phase = .upd) : core.run 2 s = s.updIssued.updated.dispatch .isr := by
  have hserved : s.updIssued.served = s.updIssued := by
    rw [served_updIssued, State.served_of_not_latched hl]
  have hhandler : s.updIssued.handler = s.updIssued.updated.dispatch .isr := by
    rw [handler_eq, hserved]
    rfl
  exact (run_succ (step_alone_timer he hs hl (timerStep_upd ha hp)) 1).trans ((run_one _).trans
    ((step_alone_handler (s := s.updIssued) he hs (by simp [State.latched, State.updIssued])).trans hhandler))

/-- From low step lines, serving the step event raises the lines of the stepping axes (43_pulse_sequencer R110). -/
theorem served_stepLine_of_low {s : State} (hlow : s.stepLine = .all false) (hs : s.tmr.stepPend = true) :
    s.served.stepLine = s.curStep.step := by
  rw [← PerAxis.mk_get s.served.stepLine, ← PerAxis.mk_get s.curStep.step]
  simp [served_stepLine_get, hlow, hs]

/-- A direction event that fires is issued and served alone. -/
theorem run_dirEvent {s : State} (he : s.env = []) (hs : s.stall = none) (hl : s.latched = false) (ha : s.tmr.armed = true)
    (hp : s.tmr.phase = .dir) (hf : s.tmr.fireDir = true) (n : Nat) :
    core.run (n + 2) s = core.run n s.dirIssued.served := by
  obtain ⟨-, -, hu⟩ := s.latched_eq_false_iff.mp hl
  exact run_event he hs hl (timerStep_dir ha hp) he hs (by simp [State.latched, hf]) hu n

/-- A step event that fires is issued and served alone. -/
theorem run_stepEvent {s : State} (he : s.env = []) (hs : s.stall = none) (hl : s.latched = false) (ha : s.tmr.armed = true)
    (hp : s.tmr.phase = .step) (hf : s.tmr.fireStep = true) (n : Nat) :
    core.run (n + 2) s = core.run n s.stepIssued.served := by
  obtain ⟨-, -, hu⟩ := s.latched_eq_false_iff.mp hl
  exact run_event he hs hl (timerStep_step ha hp) he hs (by simp [State.latched, hf]) hu n

/-- The state after a direction event served alone, in full (43_pulse_sequencer R105, R109). -/
theorem dirIssued_served {s : State} (hst : s.tmr.stepPend = false) (hf : s.tmr.fireDir = true) :
    s.dirIssued.served = { s with
      tmr := { s.tmr with dirPend := false, phase := .step }
      dirLine := s.dirIssued.served.dirLine
      trace := s.trace ++ ([Axis.x, .y, .z].filter fun a => s.curStep.dir.get a != s.cfg.dirPolarity.get a).map
        .dirAsserted } := by
  rw [State.served_eq]
  simp [State.dirIssued, hst, hf]

/-- The state after a step event served alone, in full (43_pulse_sequencer R106, R110). -/
theorem stepIssued_served {s : State} (hd : s.tmr.dirPend = false) (hf : s.tmr.fireStep = true) :
    s.stepIssued.served = { s with
      tmr := { s.tmr with stepPend := false, phase := .upd }
      stepLine := s.stepIssued.served.stepLine
      trace := s.trace ++ ([Axis.x, .y, .z].filter fun a => s.curStep.step.get a).map .stepAsserted
      pos := (s.track s.curStep).pos
      faults := (s.track s.curStep).faults } := by
  obtain ⟨hpos, hfaults⟩ := track_congr (s := s.stepIssued) (t := s) rfl rfl rfl s.stepIssued.curStep
  have hp : s.stepIssued.tmr.stepPend = true := by simp [State.stepIssued, hf]
  rw [State.served_eq, hpos, hfaults, hp]
  simp [State.stepIssued, hd]

/-- Settles O35: the timer issues each event where nothing is latched, and the invocation after it serves that event alone. -/
theorem periodEffectsComeInOrder : Obligations.PeriodEffectsComeInOrder := by
  intro s hi he hp hlt hlong
  obtain ⟨hl, hdirLow, hstepLow⟩ := hi.dirPhase hp
  have ha : s.tmr.armed = true := hi.armed_iff.mpr (by simp [hp])
  have hstall := hi.stall_of_armed ha
  have hfireDir := hi.dirFires ha (hlt.trans hlong)
  have hfireStep := hi.stepFires ha hlong
  obtain ⟨-, hst, hu⟩ := s.latched_eq_false_iff.mp hl
  -- `t1` is the state after the direction event, `t2` the one after the step event.
  have hrun1 := run_dirEvent he hstall hl ha hp hfireDir
  have ht1 := dirIssued_served hst hfireDir
  have hdir1 := served_dirLine_get s.dirIssued
  generalize s.dirIssued.served = t1 at hrun1 ht1 hdir1
  have hl1 : t1.latched = false := by rw [ht1]; simp [State.latched, hst, hu]
  have hrun2 := run_stepEvent (s := t1) (by rw [ht1]; exact he) (by rw [ht1]; exact hstall) hl1 (by rw [ht1]; exact ha)
    (by rw [ht1]) (by rw [ht1]; exact hfireStep)
  have ht2 := stepIssued_served (s := t1) (by rw [ht1]) (by rw [ht1]; exact hfireStep)
  have hstep2 := served_stepLine_of_low (s := t1.stepIssued) (by rw [ht1]; exact hstepLow)
    (by rw [ht1]; simp [State.stepIssued, hfireStep])
  generalize t1.stepIssued.served = t2 at hrun2 ht2 hstep2
  have hrun3 : core.run 2 t2 = t2.updIssued.updated.dispatch .isr := by
    refine run_end ?_ ?_ ?_ ?_ ?_ <;> rw [ht2, ht1]
    · exact he
    · exact hstall
    · simp [State.latched, hu]
    · exact ha
  have hcur : t1.curStep = s.curStep := by rw [ht1]
  have hpos : t1.pos = s.pos := by rw [ht1]
  have hcfg : t1.cfg = s.cfg := by rw [ht1]
  refine ⟨t1, t2, hrun1 0, (hrun1 2).trans (hrun2 0), hdirLow, hstepLow, fun a => ?_, ?_, hpos, hcur, ?_, ?_, ?_, ?_,
    fun a => ?_, ?_, (hrun1 4).trans ((hrun2 2).trans hrun3)⟩
  · rw [hdir1]
    simp [State.dirIssued, hdirLow, hfireDir]
  · rw [ht1]; exact hstepLow
  · rw [ht1]
  · rw [ht2]
  · rw [hstep2]; exact congrArg Step.step hcur
  · rw [ht2]; exact hcur
  · rw [ht2]
    simp only [track_pos, wrapSigned, hpos, hcfg, hcur]
  · rw [ht2, hcur]

end Sys2Proof.Machine
end

section
/-! PROOFS. The tick counts (41_step_interpolator R80, 42_dispatch_executor R99): the scaled duration as the rounded real
product, and `to_u16` of a real number. -/

namespace Sys2Proof.Machine

/-! Scaling. -/

/-- The isqrt form rounds the product with `√c` to nearest: it is `⌊x + 1/2⌋` of `x = √(4 c d²) / 2` (42_dispatch_executor
R99). -/
theorem isqrt_form_eq_roundAway (c d : Nat) :
    (((isqrt (4 * c * d * d) + 1) / 2 : Nat) : ℤ) = roundAway (d * √(c : ℝ)) := by
  have hx : 0 ≤ (d : ℝ) * √(c : ℝ) := by positivity
  have hroot : √((4 * c * d * d : Nat) : ℝ) = 2 * (d * √(c : ℝ)) := by
    have hsq : ((4 * c * d * d : Nat) : ℝ) = (2 * (d * √(c : ℝ))) ^ 2 := by
      push_cast
      rw [mul_pow, mul_pow, Real.sq_sqrt (Nat.cast_nonneg c)]
      ring
    rw [hsq, Real.sqrt_sq (by positivity)]
  rw [roundAway, if_pos hx]
  push_cast
  rw [isqrt_eq_floor, hroot, ← Int.floor_add_one]
  have hhalf : (d : ℝ) * √(c : ℝ) + 1 / 2 = (2 * (d * √(c : ℝ)) + 1) / (2 : ℕ) := by push_cast; ring
  rw [hhalf, Int.floor_div_natCast]
  rfl

theorem scaledDuration_of_le_one (d : Ticks) {k : Nat} (hk : k ≤ 1) : scaledDuration d k = d.toNat := if_pos hk

theorem scaledDuration_two (d : Ticks) : scaledDuration d 2 = (isqrt (4 * 2 * d.toNat * d.toNat) + 1) / 2 := rfl

theorem scaledDuration_three (d : Ticks) : scaledDuration d 3 = (isqrt (4 * 3 * d.toNat * d.toNat) + 1) / 2 := rfl

/-! The range. -/

theorem narrow_inRange (p : RangePolicy) {w v : Nat} (h : v < 2 ^ w) : narrow p w v = ⟨v, false⟩ := if_pos h

theorem narrow_overflow (p : RangePolicy) {w v : Nat} (h : 2 ^ w ≤ v) :
    narrow p w v = ⟨if p = .wrap then v % 2 ^ w else 2 ^ w - 1, true⟩ := by
  refine (if_neg h.not_gt).trans ?_
  cases p <;> rfl

theorem narrow_outOfRange_iff (p : RangePolicy) (w v : Nat) : (narrow p w v).outOfRange = true ↔ 2 ^ w ≤ v := by
  by_cases h : v < 2 ^ w
  · simp [narrow_inRange p h, h]
  · simp [narrow_overflow p (not_lt.mp h), not_lt.mp h]

theorem le_isqrt_iff (m n : Nat) : m ≤ isqrt n ↔ m * m ≤ n := by
  rw [isqrt_eq_sqrt, Nat.le_sqrt]

/-- The scaled duration reaches a limit `L` exactly where `4 c d²` reaches `(2 L - 1)²`. -/
theorem le_isqrt_form_iff (c d m : Nat) :
    m + 1 ≤ (isqrt (4 * c * d * d) + 1) / 2 ↔ (2 * m + 1) * (2 * m + 1) ≤ 4 * c * d * d := by
  rw [← le_isqrt_iff]
  omega

/-- Settles O11: the isqrt form is the rounded product, and the range is decided by `narrow`. -/
theorem scaleRoundsTheProduct : Obligations.ScaleRoundsTheProduct := by
  intro p w d hd
  have hpos := Nat.two_pow_pos w
  refine ⟨fun k hk => ?_, ?_, ?_, fun k _ hle => narrow_inRange p (by omega), fun k _ hlt => narrow_overflow p (by omega),
    ?_, ?_⟩
  · rw [scale, scaledDuration_of_le_one d hk]
    exact ⟨rfl, narrow_inRange p d.isLt⟩
  · rw [scaledDuration_two]
    exact_mod_cast isqrt_form_eq_roundAway 2 d.toNat
  · rw [scaledDuration_three]
    exact_mod_cast isqrt_form_eq_roundAway 3 d.toNat
  · rw [scale, narrow_outOfRange_iff, scaledDuration_two, show 2 ^ 16 = 65535 + 1 from rfl, le_isqrt_form_iff]
    constructor <;> intro h <;> nlinarith
  · rw [scale, narrow_outOfRange_iff, scaledDuration_three, show 2 ^ 16 = 65535 + 1 from rfl, le_isqrt_form_iff]
    constructor <;> intro h <;> nlinarith

/-! `to_u16` (41_step_interpolator R80). -/

/-- Settles O22: the floor of the quotient lies in the range the quotient lies in. -/
theorem toTicksTruncatesAndFlags : Obligations.ToTicksTruncatesAndFlags := by
  intro p free
  refine ⟨rfl, fun q => ⟨fun hlo hhi => ?_, fun hge => ?_, fun hlo hhi => ?_, fun hneg => ?_⟩⟩
  · have hfloor : 1 ≤ ⌊q⌋ := Int.le_floor.mpr (by exact_mod_cast hlo)
    rw [toTicks_inRange p free hfloor (Int.floor_lt.mpr (by exact_mod_cast hhi))]
    exact ⟨Int.toNat_of_nonneg (by omega), rfl⟩
  · have hfloor : 65536 ≤ ⌊q⌋ := Int.le_floor.mpr (by exact_mod_cast hge)
    rw [toTicks_overflow p free hfloor]
    refine ⟨?_, rfl⟩
    dsimp only
    split <;> omega
  · rw [Int.floor_eq_zero_iff.mpr ⟨hlo, hhi⟩]
    rfl
  · exact if_pos (Int.floor_lt_zero.mpr hneg)

end Sys2Proof.Machine
end

section
/-! PROOFS. The flags and the coordinates of one call of MANUAL_STEP (41_step_interpolator R81 to R83), and two special
deflections (41_step_interpolator R84, R88). -/

namespace Sys2Proof.Machine

/-! The magnitude (41_step_interpolator R76, R77). -/

/-- The magnitude is 0 exactly up to the deadzone's radius: past a radius `r` below 1 it is `(m - r) / (1 - r)`. -/
theorem State.refM_eq_zero_iff {s : State} (hr : 0 ≤ s.mcs.deadzone.toReal) :
    s.refM = 0 ↔ s.refRawM ≤ s.mcs.deadzone.toReal := by
  unfold State.refM State.refFactor
  constructor
  · intro h
    by_contra hgt
    rw [if_neg hgt] at h
    rw [not_le] at hgt
    have hle : s.refRawM ≤ 1 := min_le_right _ _
    have hm : 0 < s.refRawM := hr.trans_lt hgt
    have hfactor : 0 < (s.refRawM - s.mcs.deadzone.toReal) / ((1 - s.mcs.deadzone.toReal) * s.refRawM) :=
      div_pos (sub_pos.mpr hgt) (mul_pos (by linarith) hm)
    rw [max_eq_right hfactor.le] at h
    exact (mul_pos hfactor hm).ne' h
  · intro h
    rw [if_pos h, zero_mul]

/-- Settles O20: the magnitude of a call is the rules' real one. -/
theorem magnitudeStaysInTheUnitInterval : Obligations.MagnitudeStaysInTheUnitInterval := by
  intro s hl hx
  obtain ⟨-, -, hm⟩ := s.real_deflection hx
  obtain ⟨-, -, -, -, hr, -⟩ := hl
  obtain ⟨hlo, hhi⟩ := s.refM_mem_unit hr
  change 0 ≤ s.real s.deflection.m ∧ s.real s.deflection.m ≤ 1 ∧ (s.real s.deflection.m = 0 ↔ _)
  rw [hm]
  exact ⟨hlo, hhi, s.refM_eq_zero_iff hr⟩

/-- Settles O24: the displacement is 0 on both channels, so the magnitude is. -/
theorem calibratedRestGivesTheZeroStep : Obligations.CalibratedRestGivesTheZeroStep := by
  intro s moves hx he hr
  refine ⟨step_calibrate he, ?_⟩
  obtain ⟨t, ht⟩ : ∃ t : State, t = { s with env := moves, mcs := { s.mcs with zero := s.raw } } := ⟨_, rfl⟩
  have hraw : t.refRawM = 0 := by simp [ht, State.refRawM, State.refRawX, State.refRawY]
  have hm : t.refM = 0 := (State.refM_eq_zero_iff (by rw [ht]; exact hr)).mpr (by rw [hraw, ht]; exact hr)
  rw [← ht, State.manualStep_rest (by rw [ht]; exact hx) hm]

/-! One call with a magnitude (41_step_interpolator R81 to R83). -/

/-- The working state after a call with a magnitude is step 7's. -/
theorem State.manualStep_mcs {s : State} (hx : s.Exact) (hm : s.refM ≠ 0) : s.manualStep.2.mcs =
    s.retargeted.advance (exactArithmetic s.rootRad) s.rootRad (s.deflection.slope (exactArithmetic s.rootRad))
      (nextCount s.cfg.counterWidth s.refCount) := by
  rw [s.manualStep_moving hx hm, s.retarget_n hx, s.arithmetic_exact hx]

/-- The counter after a call with a magnitude. -/
theorem State.manualStep_n_eq {s : State} (hx : s.Exact) (hm : s.refM ≠ 0) :
    s.manualStep.2.mcs.n = nextCount s.cfg.counterWidth s.refCount := by
  rw [s.manualStep_mcs hx hm, ManualControlStatus.advance_n]

/-- The coordinates step 7 stores are those of the line through the two counts (41_step_interpolator R83). -/
theorem ManualControlStatus.advance_coords (rad : Nat) (slope : RealExpr) (n : Nat) (c : ManualControlStatus) :
    (c.advance (exactArithmetic rad) rad slope n).previousCoord.toReal = ((n : ℝ) - 1) * slope.toReal rad ∧
    (c.advance (exactArithmetic rad) rad slope n).newCoord.toReal = n * slope.toReal rad := by
  constructor
  · exact (exact_toReal_mul rad _ _).trans (by rw [exact_toReal_int]; push_cast; rfl)
  · exact (exact_toReal_mul rad _ _).trans (by rw [exact_toReal_int]; rfl)

/-- The two coordinates after a call with a magnitude. -/
theorem State.manualStep_coords {s : State} (hx : s.Exact) (hm : s.refM ≠ 0) :
    s.manualStep.2.mcs.previousCoord.toReal = ((s.manualStep.2.mcs.n : ℝ) - 1) * s.refSlope ∧
    s.manualStep.2.mcs.newCoord.toReal = s.manualStep.2.mcs.n * s.refSlope := by
  rw [s.manualStep_mcs hx hm, ManualControlStatus.advance_n, ← s.real_slope hx, s.arithmetic_exact hx]
  exact ManualControlStatus.advance_coords _ _ _ _

/-- The direction flags are the signs (41_step_interpolator R81). -/
theorem State.manualStep_dir {s : State} (hx : s.Exact) (hm : s.refM ≠ 0) :
    (s.manualStep.1.dir.x = true ↔ 0 ≤ s.refX) ∧ (s.manualStep.1.dir.y = true ↔ 0 ≤ s.refY) ∧
    s.manualStep.1.dir.z = false := by
  obtain ⟨hrx, hry, -⟩ := s.real_deflection hx
  rw [s.manualStep_moving hx hm, ← hrx, ← hry]
  rw [s.arithmetic_exact hx]
  exact ⟨by simp [manualStepOf], by simp [manualStepOf], rfl⟩

/-- The major axis steps, the minor axis as its coordinates say, z never (41_step_interpolator R82, R83). -/
theorem State.manualStep_step {s : State} (hx : s.Exact) (hm : s.refM ≠ 0) : s.manualStep.1.step =
    if |s.refY| ≤ |s.refX| then ⟨true, s.manualStep.2.mcs.minorSteps (exactArithmetic s.rootRad), false⟩
    else ⟨s.manualStep.2.mcs.minorSteps (exactArithmetic s.rootRad), true, false⟩ := by
  have hmajor := s.xMajor_iff hx
  rw [s.manualStep_moving hx hm, ← s.arithmetic_exact hx]
  by_cases h : |s.refY| ≤ |s.refX|
  · simp [manualStepOf, h, hmajor.mpr h]
  · simp [manualStepOf, h, Bool.eq_false_iff.mpr (mt hmajor.mp h)]

/-- The minor axis steps where the rounded coordinate changes (41_step_interpolator R83). -/
theorem State.refMinorFlag_iff {s : State} (hx : s.Exact) (hm : s.refM ≠ 0) :
    s.refMinorFlag s.manualStep.1 = true ↔
      roundAway (s.manualStep.2.mcs.n * s.refSlope) ≠ roundAway (((s.manualStep.2.mcs.n : ℝ) - 1) * s.refSlope) := by
  obtain ⟨hprev, hnew⟩ := s.manualStep_coords hx hm
  have hflag : s.refMinorFlag s.manualStep.1 = s.manualStep.2.mcs.minorSteps (exactArithmetic s.rootRad) := by
    rw [State.refMinorFlag, s.manualStep_step hx hm]
    split <;> rfl
  rw [hflag, ← hprev, ← hnew, ManualControlStatus.minorSteps, bne_iff_ne, exact_round_eq, exact_round_eq,
    s.manualStep_mcs hx hm]
  rfl

/-- Settles O18: the call's flags, counter and coordinates, one by one. -/
theorem manualFlagsFollowTheRealLine : Obligations.ManualFlagsFollowTheRealLine := by
  intro s _ hx hm
  obtain ⟨hdirX, hdirY, hdirZ⟩ := s.manualStep_dir hx hm
  obtain ⟨hprev, hnew⟩ := s.manualStep_coords hx hm
  have hstep := s.manualStep_step hx hm
  refine ⟨hdirX, hdirY, hdirZ, ?_, fun h => ?_, fun h => ?_, s.manualStep_n hx hm, hprev, hnew, s.refMinorFlag_iff hx hm⟩
  · rw [hstep]; split <;> rfl
  · rw [hstep, if_pos h]
  · rw [hstep, if_neg h.not_ge]

/-! Full deflection (41_step_interpolator R88). -/

/-- Settles O21: the vector is (1, 0), so the feed is the greatest and the slope 0. -/
theorem fullDeflectionAlongX : Obligations.FullDeflectionAlongX := by
  intro s hl hx hr hrawX hrawY hlo hhi
  have hX : s.refRawX = 1 := by simp [State.refRawX, hrawX]
  have hY : s.refRawY = 0 := by simp [State.refRawY, hrawY]
  have hM : s.refRawM = 1 := by simp [State.refRawM, hX, hY]
  have hfactor : s.refFactor = 1 := by
    have hne : 1 - s.mcs.deadzone.toReal ≠ 0 := by linarith
    rw [State.refFactor, hM, if_neg hr.not_ge, mul_one, div_self hne, max_eq_right zero_le_one]
  have hrefX : s.refX = 1 := by rw [State.refX, hfactor, hX, mul_one]
  have hrefY : s.refY = 0 := by rw [State.refY, hY, mul_zero]
  have hrefM : s.refM = 1 := by rw [State.refM, hfactor, hM, mul_one]
  have hm : s.refM ≠ 0 := by rw [hrefM]; exact one_ne_zero
  have hquot : s.refQuotient = s.params.clockFreq.toReal / (s.mcs.maxFeed.toReal / 60) / s.params.stepsPerMm.toReal := by
    rw [State.refQuotient, hrefM, one_mul, add_sub_cancel]
  have hmajor : |s.refY| ≤ |s.refX| := by simp [hrefX, hrefY]
  have hslope : s.refSlope = 0 := by rw [State.refSlope, if_pos hmajor, hrefY, abs_zero, zero_div]
  obtain ⟨-, hinRange, -⟩ := (manualDurationIsTheRealQuotient s hl hx).2 hm
  rw [← hquot] at hlo hhi ⊢
  obtain ⟨hdir, -⟩ := s.manualStep_dir hx hm
  have hminor : s.refMinorFlag s.manualStep.1 = false := by
    rw [Bool.eq_false_iff, ne_eq, s.refMinorFlag_iff hx hm, hslope, mul_zero, mul_zero]
    simp
  refine ⟨(hinRange hlo hhi).1, ?_, hdir.mpr (by rw [hrefX]; exact zero_le_one)⟩
  rw [State.refMinorFlag, if_pos hmajor, s.manualStep_step hx hm, if_pos hmajor] at hminor
  dsimp only at hminor
  rw [s.manualStep_step hx hm, if_pos hmajor, hminor]

end Sys2Proof.Machine
end

section
/-! PROOFS. Calls of MANUAL_STEP on a held vector (41_step_interpolator R86): the minor axis' flags add up to the line. -/

namespace Sys2Proof.Machine

/-! The real line and its rounding (41_step_interpolator R86). -/

theorem State.refSlope_mem_unit (s : State) : s.refSlope ∈ Set.Icc (0 : ℝ) 1 := by
  unfold State.refSlope
  split
  · next h => exact ⟨by positivity, div_le_one_of_le₀ h (abs_nonneg _)⟩
  · next h => exact ⟨by positivity, div_le_one_of_le₀ (not_le.mp h).le (abs_nonneg _)⟩

theorem roundAway_intCast (k : ℤ) : roundAway k = k := by
  have hhalf : ⌊(1 / 2 : ℝ)⌋ = 0 := by norm_num
  unfold roundAway
  split
  · rw [Int.floor_intCast_add, hhalf, add_zero]
  · rw [← Int.cast_neg, Int.floor_intCast_add, hhalf]
    ring

/-- Rounding a number that grows by at most 1 grows by 0 or 1. -/
theorem roundAway_add_cases {v σ : ℝ} (hv : 0 ≤ v) (hσ : σ ∈ Set.Icc (0 : ℝ) 1) :
    roundAway (v + σ) = roundAway v ∨ roundAway (v + σ) = roundAway v + 1 := by
  obtain ⟨hσ0, hσ1⟩ := hσ
  rw [roundAway, roundAway, if_pos hv, if_pos (by positivity)]
  have hlo : ⌊v + 1 / 2⌋ ≤ ⌊v + σ + 1 / 2⌋ := Int.floor_le_floor (by linarith)
  have hhi : ⌊v + σ + 1 / 2⌋ ≤ ⌊v + 1 / 2⌋ + 1 := by
    rw [← Int.floor_add_one]
    exact Int.floor_le_floor (by linarith)
  omega

/-! Calls on a held vector (41_step_interpolator R86). -/

/-- The quantities of a call are those of the samples, the zero offsets and the radius (41_step_interpolator R75 to R77). -/
theorem State.ref_congr {s t : State} (hraw : t.raw = s.raw) (hzero : t.mcs.zero = s.mcs.zero)
    (hradius : t.mcs.deadzone = s.mcs.deadzone) : t.refX = s.refX ∧ t.refY = s.refY ∧ t.refM = s.refM := by
  have hX : t.refRawX = s.refRawX := by rw [State.refRawX, State.refRawX, hraw, hzero]
  have hY : t.refRawY = s.refRawY := by rw [State.refRawY, State.refRawY, hraw, hzero]
  have hM : t.refRawM = s.refRawM := by rw [State.refRawM, State.refRawM, hX, hY]
  have hfactor : t.refFactor = s.refFactor := by rw [State.refFactor, State.refFactor, hM, hradius]
  exact ⟨by rw [State.refX, State.refX, hfactor, hX], by rw [State.refY, State.refY, hfactor, hY],
    by rw [State.refM, State.refM, hfactor, hM]⟩

/-- What the calls of a held vector leave alone: the parameters of the block, and the vector of every call. -/
structure State.Holds (s t : State) : Prop where
  cfg : t.cfg = s.cfg
  x : t.refX = s.refX
  y : t.refY = s.refY
  m : t.refM = s.refM

theorem State.manualRun_holds (s : State) (N : ℕ) : s.Holds (s.manualRun N) := by
  induction N with
  | zero => exact ⟨rfl, rfl, rfl, rfl⟩
  | succ N ih =>
    obtain ⟨last, n, pc, nc, r, d, e⟩ := manualStepFrame (s.manualRun N)
    have hrun : s.manualRun (N + 1) = _ := e
    obtain ⟨hX, hY, hM⟩ := State.ref_congr (s := s.manualRun N) (t := s.manualRun (N + 1))
      (by rw [hrun]) (by rw [hrun]) (by rw [hrun])
    exact ⟨by rw [hrun]; exact ih.cfg, hX.trans ih.x, hY.trans ih.y, hM.trans ih.m⟩

/-- A number of calls as the counter holds it (00_scope R9, COUNTER_WIDTH). -/
def countOf (width : Option Nat) (N : Nat) : Nat :=
  match width with
  | none => N
  | some w => N % 2 ^ w

theorem countOf_zero (width : Option Nat) : countOf width 0 = 0 := by
  cases width with
  | none => rfl
  | some w => exact Nat.zero_mod _

theorem nextCount_countOf (width : Option Nat) (N : Nat) : nextCount width (countOf width N) = countOf width (N + 1) := by
  cases width with
  | none => rfl
  | some w => exact Nat.mod_add_mod N (2 ^ w) 1

theorem State.countOf_eq {s : State} {N : Nat} (h : s.Counts N) : countOf s.cfg.counterWidth N = N := by
  unfold countOf
  split
  · rfl
  · next w hw => exact Nat.mod_eq_of_lt (h w hw)

section Held

variable {s : State} (hx : s.Exact) (hm : s.refM ≠ 0)
include hx hm

theorem State.manualRun_exact (N : ℕ) : (s.manualRun N).Exact ∧ (s.manualRun N).refM ≠ 0 := by
  have hholds := s.manualRun_holds N
  exact ⟨(congrArg BlockConfig.numerics hholds.cfg).trans hx, hholds.m ▸ hm⟩

/-- The counter after a call of a held vector, and what step 4 of the next call leaves of it: the vector stored is its own. -/
theorem State.manualRun_counts (hcount : s.refCount = 0) (N : ℕ) :
    (s.manualRun N).refCount = countOf s.cfg.counterWidth N ∧
    (s.manualRun (N + 1)).mcs.n = countOf s.cfg.counterWidth (N + 1) := by
  have hnext : ∀ k, (s.manualRun k).refCount = countOf s.cfg.counterWidth k →
      (s.manualRun (k + 1)).mcs.n = countOf s.cfg.counterWidth (k + 1) := by
    intro k hk
    obtain ⟨hxk, hmk⟩ := State.manualRun_exact hx hm k
    rw [State.manualRun, State.manualStep_n_eq hxk hmk, hk, (s.manualRun_holds k).cfg, nextCount_countOf]
  have hrefCount : (s.manualRun N).refCount = countOf s.cfg.counterWidth N := by
    induction N with
    | zero => rw [State.manualRun, hcount, countOf_zero]
    | succ k ih =>
      obtain ⟨hxk, hmk⟩ := State.manualRun_exact hx hm k
      obtain ⟨hlastX, hlastY⟩ := (s.manualRun k).retarget_last hxk
      have hheld := s.manualRun_holds k
      have hheld' := s.manualRun_holds (k + 1)
      have hlast : (s.manualRun (k + 1)).mcs.last = (s.manualRun k).retargeted.last := State.manualStep_last hxk
      have hsame : ¬ (s.manualRun (k + 1)).RefChanged := by
        rw [State.RefChanged, hlast, hlastX, hlastY, hheld.x, hheld.y, hheld'.x, hheld'.y]
        simp
      rw [State.refCount, if_neg hsame, hnext k ih]
  exact ⟨hrefCount, hnext N hrefCount⟩

/-- The minor axis' flag of the call after `N` calls: the line's rounded coordinate changes at the counter's value. -/
theorem State.manualRun_flag_iff (hcount : s.refCount = 0) (N : ℕ) :
    s.refMinorFlag (s.manualRun N).manualStep.1 = true ↔
      roundAway (countOf s.cfg.counterWidth (N + 1) * s.refSlope) ≠
        roundAway (((countOf s.cfg.counterWidth (N + 1) : ℝ) - 1) * s.refSlope) := by
  obtain ⟨hxN, hmN⟩ := State.manualRun_exact hx hm N
  have hheld := s.manualRun_holds N
  have hslope : (s.manualRun N).refSlope = s.refSlope := by rw [State.refSlope, State.refSlope, hheld.x, hheld.y]
  have hflag : ∀ st, (s.manualRun N).refMinorFlag st = s.refMinorFlag st := by
    intro st
    rw [State.refMinorFlag, State.refMinorFlag, hheld.x, hheld.y]
  have hiff := State.refMinorFlag_iff hxN hmN
  obtain ⟨-, hn⟩ := State.manualRun_counts hx hm hcount N
  rw [State.manualRun] at hn
  rwa [hflag, hslope, hn] at hiff

/-- As far as the counter counts, the flag is the change of the rounded coordinate. -/
theorem State.manualRun_flag (hcount : s.refCount = 0) {N : ℕ} (hN : s.Counts (N + 1)) :
    ((s.refMinorFlag (s.manualRun N).manualStep.1).toNat : ℤ) =
      roundAway ((N + 1 : ℕ) * s.refSlope) - roundAway ((N : ℕ) * s.refSlope) := by
  have hiff := State.manualRun_flag_iff hx hm hcount N
  have hσ := s.refSlope_mem_unit
  have hprev : (((N + 1 : ℕ) : ℝ) - 1) * s.refSlope = N * s.refSlope := by push_cast; ring
  have hnext : ((N + 1 : ℕ) : ℝ) * s.refSlope = N * s.refSlope + s.refSlope := by push_cast; ring
  rw [State.countOf_eq hN, hprev] at hiff
  have hcases := roundAway_add_cases (mul_nonneg (Nat.cast_nonneg N) hσ.1) hσ
  rw [← hnext] at hcases
  cases hflag : s.refMinorFlag (s.manualRun N).manualStep.1 with
  | true =>
    have hne := hiff.mp hflag
    simp only [Bool.toNat_true, Nat.cast_one]
    omega
  | false =>
    have heq := not_ne_iff.mp (mt hiff.mpr (by simp [hflag]))
    rw [heq, sub_self]
    rfl

end Held

/-- Settles O19: the flags are the changes of the rounded coordinate, so their sum telescopes. -/
theorem minorStepsAddUpToTheLine : Obligations.MinorStepsAddUpToTheLine := by
  intro s _ hx hm hcount
  obtain ⟨hlo, hhi⟩ := s.refSlope_mem_unit
  refine ⟨hlo, hhi, fun N hN => State.manualRun_flag hx hm hcount hN, fun N hN => ?_, fun h1 N => ?_, fun h0 N => ?_,
    fun N => (State.manualRun_counts hx hm hcount N).2⟩
  · have hterm : ∀ k ∈ Finset.range N, ((s.refMinorFlag (s.manualRun k).manualStep.1).toNat : ℤ) =
        roundAway ((k + 1 : ℕ) * s.refSlope) - roundAway ((k : ℕ) * s.refSlope) := fun k hk =>
      State.manualRun_flag hx hm hcount fun w hw => lt_of_le_of_lt (Finset.mem_range.mp hk) (hN w hw)
    have hzero : roundAway ((0 : ℕ) * s.refSlope) = 0 := by simpa using roundAway_intCast 0
    rw [Nat.cast_sum, Finset.sum_congr rfl hterm, Finset.sum_range_sub (fun k : ℕ => roundAway (k * s.refSlope)), hzero,
      sub_zero]
  · rw [State.manualRun_flag_iff hx hm hcount, h1, mul_one, mul_one]
    generalize countOf s.cfg.counterWidth (N + 1) = n
    have hn : roundAway (n : ℝ) = n := by exact_mod_cast roundAway_intCast n
    have hn' : roundAway ((n : ℝ) - 1) = n - 1 := by exact_mod_cast roundAway_intCast (n - 1)
    rw [hn, hn']
    omega
  · rw [Bool.eq_false_iff, ne_eq, State.manualRun_flag_iff hx hm hcount, h0, mul_zero, mul_zero]
    simp

end Sys2Proof.Machine
end
